-- ==== Sys2Proof/Word.lean ====
section
/-! DEFINITION. The words of the block: 8-bit bytes, 32-bit words, 9-bit offsets in the register window
(spec/00_scope.md R10, spec/20_memory.md R51). Every number of the block is unsigned (R10, R12). -/

namespace Sys2Proof

/-- A byte: an intensity, a frame byte, the cursor mask, a group (00_scope.md R10, R12). -/
abbrev Byte := BitVec 8

/-- A word: a register value, a command word, a delay, a length (00_scope.md R10, R12). -/
abbrev Word := BitVec 32

/-- A byte offset in the block's window of 512 bytes, 0x000 to 0x1FF (20_memory.md R51). -/
abbrev Offset := BitVec 9

end Sys2Proof
end

