-- ==== Sys2Proof/Syntax.lean ====
section
/-! DEFINITION. The syntax: the seven commands (30_encoding.md R73), the registers of the window
(10_state.md R37), the host's acts, the frames of the environment and the events of the machine
(00_scope.md R5). -/

namespace Sys2Proof

/-- The commands, one constructor for each row of spec/opcode_table.json. Only RADIO_CONFIGURE has an operand, the
8-bit group (30_encoding.md R72), so every term of this type is a well-formed command. -/
inductive Instr where
  /-- LED_SUBMIT (40_led.md R86). -/
  | ledSubmit
  /-- LED_CLEAR (40_led.md R87). -/
  | ledClear
  /-- LED_STEP (40_led.md R88). -/
  | ledStep
  /-- RADIO_CONFIGURE with its group (41_radio.md R111). -/
  | radioConfigure (group : Byte)
  /-- RADIO_START_RX (41_radio.md R113). -/
  | radioStartRx
  /-- RADIO_RECEIVE (41_radio.md R117). -/
  | radioReceive
  /-- ERR_CLEAR (42_control.md R130). -/
  | errClear
deriving DecidableEq, Repr, Inhabited

/-- The named registers of the window (10_state.md R37). -/
inductive Reg where
  | cmd
  | status
  | ctrl
  | ledDelay
  | timerRem
  | lines
  | radioGroup
  | rxLen
  | img (j : Fin 7)
  | rxdata (j : Fin 16)
  | active (j : Fin 7)
  | pending (j : Fin 7)
deriving DecidableEq, Repr, Inhabited

/-- The size of a host access. The block admits only 32 bits (20_memory.md R53). -/
inductive AccessSize where
  | bits8
  | bits16
  | bits32
deriving DecidableEq, Repr, Inhabited

/-- The interrupt sources that reach the host (60_exceptions.md R148). The source's fourth, the high-resolution timer,
is the block's own step timer and no longer interrupts the host. -/
inductive IrqSource where
  | realTimeTick
  | radioFrameComplete
  | buttonEdge
deriving DecidableEq, Repr, Inhabited

/-- One act of the host: a register access (30_encoding.md R78), a full fence (20_memory.md R65), the two ends of a
critical section (60_exceptions.md R152), the start of a handler and the return from it (60_exceptions.md R151). A read of
STATUS made to test RADIO_END is an act of its own, since 20_memory.md R65 puts a fence on it for its purpose (log 11). -/
inductive HostOp where
  /-- `R off`: a read at an offset of the window. -/
  | read (size : AccessSize) (off : Offset)
  /-- `W off v`: a write at an offset of the window. -/
  | write (size : AccessSize) (off : Offset) (v : Word)
  /-- The 32-bit read of STATUS to test RADIO_END. -/
  | testEnd
  | fence
  | beginCritical
  | endCritical
  | takeIrq (src : IrqSource)
  | returnFromIrq
deriving DecidableEq, Repr, Inhabited

/-- A frame that the environment offers (41_radio.md R114). Its byte string has length at least 1, so its first byte,
the declared on-air length, stands apart. -/
structure Frame where
  base : Word
  addrPrefix : Byte
  declared : Byte
  rest : List Byte
  crcOk : Bool
deriving DecidableEq, Repr, Inhabited

/-- The byte string `b[0..m-1]` of a frame (41_radio.md R114). -/
def Frame.bytes (f : Frame) : List Byte := f.declared :: f.rest

/-- What may reset the block (70_reset_and_hazards.md R166): power-on always does; which of the platform's other events
do is a parameter. -/
inductive ResetSource where
  | powerOn
  | platform (id : Nat)
deriving DecidableEq, Repr, Inhabited

/-- One step of one agent (00_scope.md R5). -/
inductive Event where
  /-- A step of the host. -/
  | host (op : HostOp)
  /-- A tick of the step timer (40_led.md R102). -/
  | tick
  /-- A frame offered to the radio receiver (41_radio.md R114). -/
  | frame (f : Frame)
  /-- A reset event (70_reset_and_hazards.md R165). -/
  | reset (src : ResetSource)
  /-- A device outside the block requests an interrupt of the host (60_exceptions.md R148). The radio's request is the
  level of the block's own line, so an event for it does nothing. -/
  | request (src : IrqSource)
deriving DecidableEq, Repr, Inhabited

end Sys2Proof
end

