-- ==== Sys2Proof/Config.lean ====
section
/-! DEFINITION. The parameters of the block (00_scope.md R6), and the free values: constants with no body that stand
for what the spec leaves open. -/

namespace Sys2Proof

/-- The electrical level of an active drive line (00_scope.md R6, P_ROW_POL and P_COL_POL). -/
inductive Polarity where
  | activeHigh
  | activeLow
deriving DecidableEq, Repr, Inhabited

/-- The parameters of 00_scope.md R6, with any values: WellFormed.lean says which are legal. Delays are 32-bit
unsigned by their type (R9). -/
structure Params where
  /-- P_MAP: the physical cell (row, column) of each logical cell k = 5·r + c. -/
  map : Vector (Fin 3 × Fin 9) 25
  /-- P_DWELL: the dwell of each bit-plane, in ticks. -/
  dwell : Vector Word 8
  /-- P_WRAP_DELAY: the override of the dwell of a step that wraps the mask. -/
  wrapDelay : Option Word
  /-- P_ROW_PERIOD: the delay of a row-cycle step. -/
  rowPeriod : Word
  /-- P_RX_CAP: the capacity of the receive buffer, in bytes. -/
  rxCap : Nat
  /-- P_RX_COPY_ADJ: added to the declared on-air length before capping. -/
  rxCopyAdj : Nat
  /-- P_BASE_ADDR: the radio's base address. -/
  baseAddr : Word
  /-- P_CRC_POLY, P_CRC_INIT, P_WHITE_IV, P_TXPOWER, P_FREQ, P_TIMER_HZ: no rule reads them (41_radio.md R112). -/
  crcPoly : Nat
  crcInit : BitVec 16
  whiteIv : Nat
  txPower : Nat
  freq : Nat
  timerHz : Nat
  /-- P_BLOCK_BASE: the host address of the window. -/
  blockBase : Nat
  /-- P_ROW_POL and P_COL_POL. -/
  rowPol : Polarity
  colPol : Polarity
  /-- P_IRQ_PRIO: the priority of each host interrupt source, in the order of `IrqSource`'s constructors. DESIGN
  CHOICE (log 7): a larger number is the more urgent. -/
  irqPrio : Vector Nat 3
  /-- The platform's events that reset the block besides power-on (70_reset_and_hazards.md R166). -/
  resetSources : List Nat
deriving DecidableEq, Repr

/-! ## Free values

Each stands for a parameter to which the spec gives no value (00_scope.md R6, OPEN), at `State.reset` (log 1), or for
the environment's choices (log 2). None has a body, so nothing can be proved of its value. -/

/-- Free value for P_ROW_PERIOD (the model takes `1 + freeRowPeriod mod (2^32 - 1)`, so that R9 holds). -/
opaque Config.freeRowPeriod : Nat
/-- Free value for P_RX_CAP: whether the deployment profile is the 64-byte one. -/
opaque Config.freeWideBuffer : Bool
/-- Free value for P_RX_COPY_ADJ: whether 1 is added. -/
opaque Config.freeCopyAdjust : Bool
/-- Free value for P_BASE_ADDR. -/
opaque Config.freeBaseAddr : Word
/-- Free value for P_CRC_POLY. -/
opaque Config.freeCrcPoly : Nat
/-- Free value for P_CRC_INIT. -/
opaque Config.freeCrcInit : BitVec 16
/-- Free value for P_WHITE_IV. -/
opaque Config.freeWhiteIv : Nat
/-- Free value for P_TXPOWER. -/
opaque Config.freeTxPower : Nat
/-- Free value for P_FREQ. -/
opaque Config.freeFreq : Nat
/-- Free value for P_TIMER_HZ. -/
opaque Config.freeTimerHz : Nat
/-- Free value for P_BLOCK_BASE, counted in windows of 512 bytes. -/
opaque Config.freeBlockPage : Nat
/-- Free value for P_ROW_POL. -/
opaque Config.freeRowPol : Polarity
/-- Free value for P_COL_POL. -/
opaque Config.freeColPol : Polarity
/-- Free value for P_IRQ_PRIO, one for each source. -/
opaque Config.freeIrqPrio : Nat → Nat
/-- Free value for the set of reset events. -/
opaque Config.freeResetSources : List Nat

/-- The choices of the environment where the agenda of State is empty (20_memory.md R63, 41_radio.md R114): the n-th
event that happens is any event at all. -/
opaque Config.environment : Nat → Event

end Sys2Proof
end

