-- ==== Sys2Proof/WellFormed.lean ====
section
/-! DEFINITION. Which configurations are legal (00_scope.md R7 to R9, 20_memory.md R51), the refusal of any other
before any step (R13). A command needs no check: the only operand is an 8-bit group (30_encoding.md R72). The check of
a host access, `accessAdmitted`, stands beside the offset decoder in Decode.lean. -/

namespace Sys2Proof

/-- P_MAP is injective (00_scope.md R7). -/
def Params.mapInjective (p : Params) : Bool := decide p.map.toList.Nodup

/-- The effective dwell of a step that lands on bit-plane 0, which always wraps: `dwell(0, true)` (00_scope.md R8). -/
def Params.wrapDwell (p : Params) : Word := p.wrapDelay.getD p.dwell[0]

/-- At least one of `dwell(0, true)`, `P_DWELL[1]`, …, `P_DWELL[7]` is nonzero (00_scope.md R8). -/
def Params.someDwell (p : Params) : Bool := p.wrapDwell != 0 || p.dwell.toList.tail.any (· != 0)

/-- P_ROW_PERIOD is at least 1 (00_scope.md R9). -/
def Params.rowPeriodPositive (p : Params) : Bool := p.rowPeriod != 0

/-- P_RX_CAP is 32 or 64 (00_scope.md R9). -/
def Params.rxCapLegal (p : Params) : Bool := p.rxCap == 32 || p.rxCap == 64

/-- P_RX_COPY_ADJ is 0 or 1 (00_scope.md R9). -/
def Params.rxCopyAdjLegal (p : Params) : Bool := p.rxCopyAdj == 0 || p.rxCopyAdj == 1

/-- P_BLOCK_BASE is a multiple of 512 (20_memory.md R51). -/
def Params.blockBaseAligned (p : Params) : Bool := p.blockBase % 512 == 0

/-- All the rules a configuration must keep. -/
def Params.wf (p : Params) : Bool :=
  p.mapInjective && p.someDwell && p.rowPeriodPositive && p.rxCapLegal && p.rxCopyAdjLegal && p.blockBaseAligned

/-- A legal configuration: the parameters with the proof that they keep the rules. -/
structure Config extends Params where
  legal : toParams.wf = true
deriving DecidableEq, Repr

/-- Why a configuration is refused. -/
inductive ConfigProblem where
  | mapNotInjective
  | everyDwellZero
  | rowPeriodZero
  | rxCapIllegal
  | rxCopyAdjIllegal
  | blockBaseUnaligned
deriving DecidableEq, Repr

/-- The first rule that illegal parameters break. -/
def Params.problem (p : Params) : ConfigProblem :=
  if !p.mapInjective then .mapNotInjective
  else if !p.someDwell then .everyDwellZero
  else if !p.rowPeriodPositive then .rowPeriodZero
  else if !p.rxCapLegal then .rxCapIllegal
  else if !p.rxCopyAdjLegal then .rxCopyAdjIllegal
  else .blockBaseUnaligned

/-- Parameters become a configuration, or are refused before any step (00_scope.md R13). -/
def Params.check (p : Params) : Except ConfigProblem Config :=
  if h : p.wf = true then .ok { toParams := p, legal := h } else .error p.problem

end Sys2Proof
end

