-- ==== Sys2Proof/Decode.lean ====
section
/-! DEFINITION. Decoding: command words (30_encoding.md R71 to R77) and register offsets (10_state.md R37), each total,
each with its encoder. -/

namespace Sys2Proof

/-- Why a command word selects no command (30_encoding.md R75, R76). -/
inductive DecodeError where
  /-- The OP field is not in the opcode map. -/
  | illegalOpcode
  /-- A reserved ARG bit is 1. -/
  | reservedArg
deriving DecidableEq, Repr

/-- The OP field, bits 31:24 (30_encoding.md R71). -/
def opField (w : Word) : Byte := w.extractLsb' 24 8

/-- The ARG field, bits 23:0 (30_encoding.md R71). -/
def argField (w : Word) : BitVec 24 := w.extractLsb' 0 24

/-- A command without an operand: ARG[23:0] must be 0 (30_encoding.md R72). -/
def withoutOperand (arg : BitVec 24) (i : Instr) : Except DecodeError Instr :=
  if arg = 0 then .ok i else .error .reservedArg

/-- RADIO_CONFIGURE: the group is ARG[7:0], and ARG[23:8] must be 0 (30_encoding.md R72). -/
def withGroup (arg : BitVec 24) : Except DecodeError Instr :=
  if arg.extractLsb' 8 16 = 0 then .ok (.radioConfigure (arg.extractLsb' 0 8)) else .error .reservedArg

/-- Decodes a command word: the opcode first, then the reserved argument bits (30_encoding.md R73, R74). -/
def decode (w : Word) : Except DecodeError Instr :=
  let op := opField w
  let arg := argField w
  if op = 0x01 then withoutOperand arg .ledSubmit
  else if op = 0x02 then withoutOperand arg .ledClear
  else if op = 0x03 then withoutOperand arg .ledStep
  else if op = 0x10 then withGroup arg
  else if op = 0x11 then withoutOperand arg .radioStartRx
  else if op = 0x12 then withoutOperand arg .radioReceive
  else if op = 0x20 then withoutOperand arg .errClear
  else .error .illegalOpcode

/-- The OP value of a command (30_encoding.md R73). -/
def opcode : Instr → Byte
  | .ledSubmit => 0x01
  | .ledClear => 0x02
  | .ledStep => 0x03
  | .radioConfigure _ => 0x10
  | .radioStartRx => 0x11
  | .radioReceive => 0x12
  | .errClear => 0x20

/-- The ARG value of a command (30_encoding.md R72). -/
def argument : Instr → BitVec 24
  | .ledSubmit => 0
  | .ledClear => 0
  | .ledStep => 0
  | .radioConfigure group => 0#16 ++ group
  | .radioStartRx => 0
  | .radioReceive => 0
  | .errClear => 0

/-- The command word of a command (30_encoding.md R71). -/
def encode (i : Instr) : Word := opcode i ++ argument i

/-- The word that a row of spec/opcode_table.json stands for: its `nbits` low bits, every other bit 0; `none` where
they do not fit the one 32-bit format (30_encoding.md R71). The word is a value, written whole (20_memory.md R57). -/
def tableWord (nbits w : Nat) : Option Word :=
  let v := w % 2 ^ nbits
  if v < 2 ^ 32 then some (BitVec.ofNat 32 v) else none

/-- The command the decoder reads from a word given as the opcode table numbers its bits. -/
def decodeTableWord (nbits w : Nat) : Option Instr :=
  match tableWord nbits w with
  | none => none
  | some word =>
    match decode word with
    | .ok i => some i
    | .error _ => none

/-- The offset of a register in the window (10_state.md R37). -/
def Reg.offset : Reg → Offset
  | .cmd => 0x000
  | .status => 0x004
  | .ctrl => 0x008
  | .ledDelay => 0x00C
  | .timerRem => 0x010
  | .lines => 0x014
  | .radioGroup => 0x018
  | .rxLen => 0x01C
  | .img j => BitVec.ofNat 9 (0x040 + 4 * j.val)
  | .rxdata j => BitVec.ofNat 9 (0x080 + 4 * j.val)
  | .active j => BitVec.ofNat 9 (0x100 + 4 * j.val)
  | .pending j => BitVec.ofNat 9 (0x120 + 4 * j.val)

/-- The register that word number `n` of the window is (its offset is 4·n), `none` at a reserved offset
(10_state.md R37, 20_memory.md R55). -/
def regOfWord (n : Nat) : Option Reg :=
  if n = 0 then some .cmd
  else if n = 1 then some .status
  else if n = 2 then some .ctrl
  else if n = 3 then some .ledDelay
  else if n = 4 then some .timerRem
  else if n = 5 then some .lines
  else if n = 6 then some .radioGroup
  else if n = 7 then some .rxLen
  else if h : 16 ≤ n ∧ n < 23 then some (.img ⟨n - 16, by omega⟩)
  else if h : 32 ≤ n ∧ n < 48 then some (.rxdata ⟨n - 32, by omega⟩)
  else if h : 64 ≤ n ∧ n < 71 then some (.active ⟨n - 64, by omega⟩)
  else if h : 72 ≤ n ∧ n < 79 then some (.pending ⟨n - 72, by omega⟩)
  else none

/-- The register at a word-aligned offset of the window, `none` at a reserved one. -/
def regAt (off : Offset) : Option Reg := regOfWord (off.toNat / 4)

/-- A host access that the block admits: 32 bits at a multiple of 4 (20_memory.md R53). -/
def accessAdmitted (size : AccessSize) (off : Offset) : Bool := size == .bits32 && off.toNat % 4 == 0

/-- The offset in the window of a host address, `none` outside it: the window lies at P_BLOCK_BASE (20_memory.md R51,
00_scope.md R11). -/
def Params.offsetOf (p : Params) (addr : Nat) : Option Offset :=
  if p.blockBase ≤ addr ∧ addr < p.blockBase + 512 then some (BitVec.ofNat 9 (addr - p.blockBase)) else none

/-- The host address of an offset of the window (00_scope.md R11). -/
def Params.addressOf (p : Params) (off : Offset) : Nat := p.blockBase + off.toNat

end Sys2Proof
end

