-- ==== Sys2Proof/Machine/Defaults.lean ====
section
/-! DEFINITION. The values the spec gives the parameters (00_scope.md R6, R7), and the configuration of the machine at
`State.reset`: those values, and a free value for every parameter that has none (log 1, log 3). -/

namespace Sys2Proof

/-- The default coordinate table, row by row of the logical image (00_scope.md R7). PRESUMED (log 3): the spec takes it
from general knowledge. -/
def defaultMap : Vector (Fin 3 × Fin 9) 25 := #v[
  (0, 0), (1, 3), (0, 1), (1, 4), (0, 2),
  (2, 3), (2, 4), (2, 5), (2, 6), (2, 7),
  (1, 1), (0, 8), (1, 2), (2, 8), (1, 0),
  (0, 7), (0, 6), (0, 5), (0, 4), (0, 3),
  (2, 2), (1, 6), (2, 0), (1, 5), (2, 1)]

/-- The source's dwell table (00_scope.md R6). -/
def sourceDwell : Vector Word 8 := #v[0, 0, 0, 163, 351, 726, 1476, 2976]

/-- The parameters at `State.reset`: the spec's values where it gives any, free values for the rest. -/
def standardParams : Params where
  map := defaultMap
  dwell := sourceDwell
  wrapDelay := none
  rowPeriod := BitVec.ofNat 32 (1 + Config.freeRowPeriod % (2 ^ 32 - 1))
  rxCap := if Config.freeWideBuffer then 64 else 32
  rxCopyAdj := if Config.freeCopyAdjust then 1 else 0
  baseAddr := Config.freeBaseAddr
  crcPoly := Config.freeCrcPoly
  crcInit := Config.freeCrcInit
  whiteIv := Config.freeWhiteIv
  txPower := Config.freeTxPower
  freq := Config.freeFreq
  timerHz := Config.freeTimerHz
  blockBase := 512 * Config.freeBlockPage
  rowPol := Config.freeRowPol
  colPol := Config.freeColPol
  irqPrio := Vector.ofFn fun i => Config.freeIrqPrio i.val
  resetSources := Config.freeResetSources

/-- `standardParams` are legal whatever the free values are. -/
theorem standardParams_wf : standardParams.wf = true := by
  have hmap : standardParams.mapInjective = true := by decide
  have hdwell : standardParams.someDwell = true := by decide
  have hperiod : standardParams.rowPeriodPositive = true := by
    simp only [Params.rowPeriodPositive, standardParams, bne_iff_ne, ne_eq]
    intro h
    have h0 : (BitVec.ofNat 32 (1 + Config.freeRowPeriod % (2 ^ 32 - 1))).toNat = 0 := by rw [h]; rfl
    rw [BitVec.toNat_ofNat] at h0
    omega
  have hcap : standardParams.rxCapLegal = true := by
    simp only [Params.rxCapLegal, standardParams]
    cases Config.freeWideBuffer <;> rfl
  have hadj : standardParams.rxCopyAdjLegal = true := by
    simp only [Params.rxCopyAdjLegal, standardParams]
    cases Config.freeCopyAdjust <;> rfl
  have hbase : standardParams.blockBaseAligned = true := by
    simp [Params.blockBaseAligned, standardParams]
  simp [Params.wf, hmap, hdwell, hperiod, hcap, hadj, hbase]

/-- The configuration at `State.reset`. -/
def Config.standard : Config := { toParams := standardParams, legal := standardParams_wf }

end Sys2Proof
end

