-- ==== Sys2Proof/Machine/State.lean ====
section
/-! DEFINITION. The state of the machine: the block's fields (10_state.md R15), the host agent's (60_exceptions.md
section 4) and the model's own; the reasons a step can stop; the state after reset (10_state.md R50). -/

namespace Sys2Proof.Machine

/-- The two LED modes (10_state.md R40, CTRL.MODE). -/
inductive LedMode where
  /-- MODE = 0, the source's mode (b). -/
  | bitPlane
  /-- MODE = 1, the source's mode (a). -/
  | rowCycle
deriving DecidableEq, Repr, Inhabited

/-- Why a step faults. -/
inductive Fault where
  /-- Raised by a host access of the wrong size or alignment: the host receives a bus error and the run of the host
  ends (20_memory.md R53). Safe: the machine stops where the spec says the run ends. -/
  | busError
  /-- Raised by an activation from a cursor mask that is not one-hot, where the spec's `ctz8` is not defined
  (00_scope.md R11). No run reaches such a mask (40_led.md R107). Safe: the machine stops (log 8). -/
  | sequencerStuck
deriving DecidableEq, Repr

/-- Why a step is refused. -/
inductive Refusal where
  /-- Raised by an arm of exec for a command without a meaning; every command has one, so nothing raises it. Safe. -/
  | notModelled (mnemonic : String)
deriving DecidableEq, Repr

/-- The machine. The first group of fields is the block state, exactly the fields of 10_state.md R15. -/
structure State where
  /-- The block is HALTED (R16). -/
  halted : Bool
  /-- The code of the most recent command error (R17). -/
  err : BitVec 4
  /-- CTRL.LED_EN: the step timer counts. -/
  ledEn : Bool
  /-- CTRL.MODE. -/
  mode : LedMode
  /-- CTRL.INTEN_END: the frame-complete interrupt is enabled. -/
  intenEnd : Bool
  /-- The logical image staged by the host, byte k = 5·r + c (R18). -/
  img : Vector Byte 25
  /-- The pending physical buffer, byte q = 9·pr + pc (R19, R48). -/
  pending : Vector Byte 27
  /-- The active physical buffer, byte q = 9·pr + pc (R20, R48). -/
  active : Vector Byte 27
  /-- A submitted image awaits commit (R21). -/
  pendingUpdate : Bool
  /-- The cursor's row index (R22). -/
  row : Fin 3
  /-- The cursor's bit-plane mask (R22). -/
  mask : Byte
  /-- The row drive lines, `true` = active (R23). -/
  rowAct : Vector Bool 3
  /-- The column drive lines, `true` = active (R23). -/
  colAct : Vector Bool 9
  /-- The delay the last activation ended with (R24). -/
  ledDelay : Word
  /-- The step timer holds a pending expiry (R25). -/
  timerArmed : Bool
  /-- The ticks to that expiry (R25). -/
  timerRem : Word
  /-- RADIO_CONFIGURE has run since reset (R26). -/
  radioConfigured : Bool
  /-- The radio is armed and listening (R27). -/
  radioRx : Bool
  /-- The configured group (R28). -/
  radioGroup : Byte
  /-- A frame is in `rxbuf` and not yet received (R29). -/
  radioEnd : Bool
  /-- The CRC result of the last frame (R30). -/
  radioCrcok : Bool
  /-- The receive buffer; only its first P_RX_CAP bytes exist (R31, log 9). -/
  rxbuf : Vector Byte 64
  /-- The host-visible copy (R32). -/
  rxdata : Vector Byte 64
  /-- The length the last RADIO_RECEIVE returned (R33). -/
  rxLen : Word
  /-- The host's running handlers, innermost first; empty in the main program (60_exceptions.md R151, log 7). -/
  hostHandlers : List IrqSource
  /-- The interrupt requests that wait at the host, in the order of their occurrence, each source at most once; the
  radio's stands for its line as the last step found it (60_exceptions.md R154, log 7). -/
  hostRequests : List IrqSource
  /-- The host is inside a critical section (60_exceptions.md R152, log 7). -/
  hostCritical : Bool
  /-- The model's own: the configuration, which no step changes (R15, log 1). -/
  cfg : Config
  /-- The model's own: the word the last admitted host read returned (log 6). -/
  hostData : Word
  /-- The model's own: the events still to happen, next first (20_memory.md R63, log 2). -/
  agenda : List Event
  /-- The model's own: how many events the environment has chosen where the agenda was empty (log 2). -/
  choices : Nat
deriving DecidableEq, Repr

/-- The machine right after reset under a configuration (10_state.md R50), with the host in its main program and
nothing on the agenda. -/
def State.resetWith (c : Config) : State where
  halted := false
  err := 0
  ledEn := false
  mode := .bitPlane
  intenEnd := false
  img := Vector.replicate 25 0
  pending := Vector.replicate 27 0
  active := Vector.replicate 27 0
  pendingUpdate := false
  row := 0
  mask := 0x01
  rowAct := Vector.replicate 3 false
  colAct := Vector.replicate 9 false
  ledDelay := 0
  timerArmed := false
  timerRem := 0
  radioConfigured := false
  radioRx := false
  radioGroup := 0
  radioEnd := false
  radioCrcok := false
  rxbuf := Vector.replicate 64 0
  rxdata := Vector.replicate 64 0
  rxLen := 0
  hostHandlers := []
  hostRequests := []
  hostCritical := false
  cfg := c
  hostData := 0
  agenda := []
  choices := 0

/-- The machine right after reset under the standard configuration. -/
def State.reset : State := State.resetWith Config.standard

end Sys2Proof.Machine
end

