-- ==== Sys2Proof/Machine/Operands.lean ====
section
/-! DEFINITION. The operands and the small computations of the rules: bit fields, byte packing, the mask, the dwell, the
coordinate table, the copy length (00_scope.md R8, R11, R12; 20_memory.md R57; 40_led.md R94 to R97; 41_radio.md
R118). -/

namespace Sys2Proof.Machine

/-- `rotl8(m, 1)` (00_scope.md R11). -/
def rotl8 (m : Byte) : Byte := (m <<< 1) ||| (m >>> 7)

/-- `ctz8(m)`: the index of the set bit of a one-hot byte, `none` for any other byte (00_scope.md R11). -/
def ctz8 (m : Byte) : Option (Fin 8) := (List.finRange 8).find? fun k => m == 1#8 <<< k.val

/-- The byte is one-hot (10_state.md R22). -/
def oneHot (m : Byte) : Bool := (ctz8 m).isSome

/-- The effective bit-plane delay `dwell(k, wrapped)` (00_scope.md R8). -/
def dwell (c : Config) (k : Fin 8) (wrapped : Bool) : Word :=
  match wrapped, c.wrapDelay with
  | true, some v => v
  | true, none => c.dwell[k]
  | false, _ => c.dwell[k]

/-- The byte index q = 9·pr + pc of a physical cell (10_state.md R48). -/
def cellIndex (pr : Fin 3) (pc : Fin 9) : Fin 27 := ⟨9 * pr.val + pc.val, by omega⟩

/-- The byte index of the physical cell of logical cell k under P_MAP (00_scope.md R6). -/
def mappedIndex (c : Config) (k : Fin 25) : Fin 27 := cellIndex c.map[k].1 c.map[k].2

/-- One cell of a physical buffer. -/
def cell (b : Vector Byte 27) (pr : Fin 3) (pc : Fin 9) : Byte := b[cellIndex pr pc]

/-- The logical cell that maps to the physical byte index q, where there is one; P_MAP is injective, so there is at most
one (00_scope.md R7). -/
def logicalOf (c : Config) (q : Fin 27) : Option (Fin 25) := (List.finRange 25).find? fun k => mappedIndex c k == q

/-- The pending buffer after the 25 writes of LED_SUBMIT: a cell that a logical cell maps to takes its intensity, any
other keeps its value (40_led.md R86). Laws/Operands.lean proves it equal to the writes in their order. -/
def mapImage (c : Config) (img : Vector Byte 25) (pending : Vector Byte 27) : Vector Byte 27 :=
  pending.mapFinIdx fun q old h =>
    match logicalOf c ⟨q, h⟩ with
    | some k => img[k]
    | none => old

/-- The column drive of row-cycle mode (40_led.md R94). -/
def binaryColumns (active : Vector Byte 27) (row : Fin 3) : Vector Bool 9 :=
  Vector.ofFn fun c => cell active row c != 0

/-- The column drive of bit-plane mode (40_led.md R95). -/
def planeColumns (active : Vector Byte 27) (row : Fin 3) (mask : Byte) : Vector Bool 9 :=
  Vector.ofFn fun c => cell active row c &&& mask != 0

/-- Every row line inactive. -/
def noRows : Vector Bool 3 := Vector.replicate 3 false

/-- Every column line inactive. -/
def noColumns : Vector Bool 9 := Vector.replicate 9 false

/-- The first `n` bytes are those of `src`, the others those of `old` (41_radio.md R117). -/
def copyFirst (n : Nat) (src old : Vector Byte 64) : Vector Byte 64 :=
  old.mapFinIdx fun i o h => if i < n then src[i] else o

/-- The first `n` bytes are those of the string `b`, where it has them, the others those of `old` (41_radio.md R114,
R116). -/
def storeBytes (n : Nat) (b : List Byte) (old : Vector Byte 64) : Vector Byte 64 :=
  old.mapFinIdx fun i o _ => if i < n then (b[i]?).getD o else o

/-- How many bytes of a frame the receiver keeps: `min(m, P_RX_CAP)` (41_radio.md R114). -/
def keptLength (c : Config) (f : Frame) : Nat := min f.bytes.length c.rxCap

/-- The copy length `min(rxbuf[0] + P_RX_COPY_ADJ, P_RX_CAP)` (41_radio.md R118). -/
def copyLength (c : Config) (declared : Byte) : Nat := min (declared.toNat + c.rxCopyAdj) c.rxCap

/-- The receiver accepts a frame only with its base address and its group (41_radio.md R115). -/
def frameMatches (c : Config) (group : Byte) (f : Frame) : Bool := f.base == c.baseAddr && f.addrPrefix == group

/-- Byte i of a word, bits 8·i + 7 : 8·i (20_memory.md R57). -/
def byteOf (v : Word) (i : Nat) : Byte := v.extractLsb' (8 * i) 8

/-- Word j of a byte array, packed little-endian; bytes past its end read 0 (20_memory.md R57, 10_state.md R46 to
R48). -/
def packWord {n : Nat} (b : Vector Byte n) (j : Nat) : Word :=
  let byte (k : Nat) : Byte := (b[k]?).getD 0
  byte (4 * j + 3) ++ byte (4 * j + 2) ++ byte (4 * j + 1) ++ byte (4 * j)

/-- A write of v to IMGj: byte k of the image is byte k mod 4 of v where k div 4 = j (10_state.md R46). -/
def storeImgWord (j : Fin 7) (v : Word) (img : Vector Byte 25) : Vector Byte 25 :=
  img.mapFinIdx fun k o _ => if k / 4 = j.val then byteOf v (k % 4) else o

/-- The MODE bit (10_state.md R40). -/
def LedMode.bit : LedMode → Bool
  | .bitPlane => false
  | .rowCycle => true

/-- The mode that a MODE bit selects (10_state.md R40). -/
def modeOfBit (b : Bool) : LedMode := if b then .rowCycle else .bitPlane

/-- An electrical level. -/
inductive Level where
  | low
  | high
deriving DecidableEq, Repr

/-- The level of a line under a polarity (10_state.md R23). -/
def lineLevel (p : Polarity) (lineActive : Bool) : Level :=
  match p with
  | .activeHigh => if lineActive then .high else .low
  | .activeLow => if lineActive then .low else .high

/-- The number of an interrupt source in P_IRQ_PRIO. -/
def irqIndex : IrqSource → Fin 3
  | .realTimeTick => 0
  | .radioFrameComplete => 1
  | .buttonEdge => 2

/-- The host's priority of an interrupt source (60_exceptions.md R154). -/
def irqPriority (c : Config) (src : IrqSource) : Nat := c.irqPrio[irqIndex src]

end Sys2Proof.Machine
end

