-- ==== Sys2Proof/Machine/Flags.lean ====
section
/-! DEFINITION. The status word, the control word, the line word and the interrupt line, computed from the state; the
error codes (10_state.md R23, R34, R39, R40, R43; 60_exceptions.md R141). -/

namespace Sys2Proof.Machine

/-- The errors a command can raise (60_exceptions.md R141). -/
inductive ErrCode where
  | illegalOpcode
  | reservedArg
  | notConfigured
  | noFrame
  | framePending
  | haltConfigNotDisabled
deriving DecidableEq, Repr

/-- The code of an error, as STATUS.ERR holds it (60_exceptions.md R141). -/
def ErrCode.code : ErrCode → BitVec 4
  | .illegalOpcode => 1
  | .reservedArg => 2
  | .notConfigured => 3
  | .noFrame => 4
  | .framePending => 5
  | .haltConfigNotDisabled => 15

/-- The error that a word which selects no command raises (42_control.md R131, R132). -/
def decodeErrCode : DecodeError → ErrCode
  | .illegalOpcode => .illegalOpcode
  | .reservedArg => .reservedArg

/-- The level of the line IRQ_RADIO_END (10_state.md R34). -/
def State.irqRadioEnd (s : State) : Bool := s.radioEnd && s.intenEnd

/-- STATUS (10_state.md R39). -/
def statusWord (s : State) : Word :=
  s.mask ++ 0#6 ++ BitVec.ofNat 2 s.row.val ++ 0#4 ++ s.err
    ++ BitVec.ofBool s.irqRadioEnd ++ BitVec.ofBool s.timerArmed
    ++ BitVec.ofBool s.radioCrcok ++ BitVec.ofBool s.radioEnd
    ++ BitVec.ofBool s.radioRx ++ BitVec.ofBool s.radioConfigured
    ++ BitVec.ofBool s.pendingUpdate ++ BitVec.ofBool s.halted

/-- CTRL (10_state.md R40). -/
def ctrlWord (s : State) : Word :=
  0#29 ++ BitVec.ofBool s.intenEnd ++ BitVec.ofBool s.mode.bit ++ BitVec.ofBool s.ledEn

/-- LINES (10_state.md R43). -/
def linesWord (s : State) : Word :=
  0#15 ++ BitVec.ofFnLE (fun c : Fin 9 => s.colAct[c]) ++ 0#5 ++ BitVec.ofFnLE (fun r : Fin 3 => s.rowAct[r])

/-- The electrical level of row line r (10_state.md R23). -/
def State.rowLevel (s : State) (r : Fin 3) : Level := lineLevel s.cfg.rowPol s.rowAct[r]

/-- The electrical level of column line c (10_state.md R23). -/
def State.colLevel (s : State) (c : Fin 9) : Level := lineLevel s.cfg.colPol s.colAct[c]

/-- The LED at physical (r, c) is lit (10_state.md R23). -/
def State.lit (s : State) (r : Fin 3) (c : Fin 9) : Bool := s.rowAct[r] && s.colAct[c]

/-- The four situations of the receiver (41_radio.md R110). -/
inductive Situation where
  | unconfigured
  | disabled
  | armed
  | frameComplete
deriving DecidableEq, Repr

/-- The situation the receiver is in, by R110's definitions; `none` in a state that fits none of them. -/
def State.situation (s : State) : Option Situation :=
  if s.radioConfigured = false ∧ s.radioRx = false ∧ s.radioEnd = false then some .unconfigured
  else if s.radioConfigured = true ∧ s.radioRx = false ∧ s.radioEnd = false then some .disabled
  else if s.radioConfigured = true ∧ s.radioRx = true ∧ s.radioEnd = false then some .armed
  else if s.radioConfigured = true ∧ s.radioRx = false ∧ s.radioEnd = true then some .frameComplete
  else none

end Sys2Proof.Machine
end

