-- ==== Sys2Proof/Machine/Ops.lean ====
section
/-! DEFINITION. The shared operations over the state: raising an error and halting, the sequencer's procedures, the step
timer, the radio's transitions, the reset event (60_exceptions.md R141 to R146; 40_led.md R86 to R104; 41_radio.md R111
to R120; 70_reset_and_hazards.md R165). -/

namespace Sys2Proof.Machine

/-- The three outcomes of a step of this machine. -/
abbrev StepOutcome := Host.Outcome State Fault Refusal

/-! ## Errors and the halt -/

/-- `raise Err(code)`: the code is recorded and nothing else changes (00_scope.md R11, 60_exceptions.md R142). -/
def State.raiseErr (s : State) (e : ErrCode) : State := { s with err := e.code }

/-- `raise Halt(code)`: the code is recorded and the block is HALTED (00_scope.md R11, 60_exceptions.md R145). Its exit
is the reset event alone. -/
def State.raiseHalt (s : State) (e : ErrCode) : State := { s with err := e.code, halted := true }

/-- A command while HALTED is ignored (30_encoding.md R74, 20_memory.md R60); otherwise it has its effect. -/
def unlessHalted (s : State) (effect : StepOutcome) : StepOutcome := if s.halted then .next s else effect

/-! ## The LED sequencer -/

/-- The effect of LED_SUBMIT (40_led.md R86). -/
def State.submit (s : State) : State :=
  { s with pending := mapImage s.cfg s.img s.pending, pendingUpdate := true }

/-- Every drive line inactive (40_led.md R87). -/
def State.clearLines (s : State) : State := { s with rowAct := noRows, colAct := noColumns }

/-- `Commit` (40_led.md R98). -/
def State.commit (s : State) : State := { s with active := s.pending, pendingUpdate := false }

/-- The commit of a `RowAdvance`, made only when the row index has just become 0 with an update pending
(40_led.md R91). -/
def State.commitAtWrap (s : State) : State := if s.row = 0 ∧ s.pendingUpdate = true then s.commit else s

/-- The first part of `RowAdvance`: columns and current row off, row index advanced modulo 3 (40_led.md R91). -/
def State.nextRow (s : State) : State :=
  { s with colAct := noColumns, rowAct := s.rowAct.set s.row.val false, row := s.row + 1 }

/-- The last part of `RowAdvance`: the line of the new row on (40_led.md R91). -/
def State.driveRow (s : State) : State := { s with rowAct := s.rowAct.set s.row.val true }

/-- `RowAdvance` (40_led.md R91). -/
def State.rowAdvance (s : State) : State := s.nextRow.commitAtWrap.driveRow

/-- The column drive of a row-cycle step (40_led.md R92). -/
def State.driveBinary (s : State) : State := { s with colAct := binaryColumns s.active s.row }

/-- The column drive of a bit-plane step (40_led.md R93). -/
def State.drivePlane (s : State) : State := { s with colAct := planeColumns s.active s.row s.mask }

/-- What `StepRowCycle` does to the state (40_led.md R92). -/
def State.stepRowCycle (s : State) : State := s.rowAdvance.driveBinary

/-- The rotation of the mask (40_led.md R93). -/
def State.rotateMask (s : State) : State := { s with mask := rotl8 s.mask }

/-- The row advance of a bit-plane step, made only when the rotated mask is 0x01 (40_led.md R93, R99). -/
def State.advanceAtWrap (s : State) : State := if s.mask = 0x01 then s.rowAdvance else s

/-- What `StepBitPlane` does to the state (40_led.md R93). -/
def State.stepBitPlane (s : State) : State := s.rotateMask.advanceAtWrap.drivePlane

/-- What `Step1` does to the state: the mode is read at each step (40_led.md R89). -/
def State.step1 (s : State) : State :=
  match s.mode with
  | .rowCycle => s.stepRowCycle
  | .bitPlane => s.stepBitPlane

/-- The delay that `Step1` returns, read from the state it leaves: P_ROW_PERIOD in row-cycle mode (40_led.md R96), the
dwell of the mask landed on in bit-plane mode (40_led.md R97). `none` where the mask is not one-hot and `ctz8` is not
defined. -/
def State.stepDelay (s : State) : Option Word :=
  match s.mode with
  | .rowCycle => some s.cfg.rowPeriod
  | .bitPlane => (ctz8 s.mask).map fun k => dwell s.cfg k (s.mask == 0x01)

/-- The state after n steps of the sequencer. -/
def State.steps : Nat → State → State
  | 0, s => s
  | n + 1, s => State.steps n s.step1

/-- Steps until one returns a nonzero delay: at most `n`, and `none` if none of them does (40_led.md R100). -/
def State.stepUntilDelay : Nat → State → Option (State × Word)
  | 0, _ => none
  | n + 1, s =>
    match s.step1.stepDelay with
    | none => none
    | some d => if d = 0 then State.stepUntilDelay n s.step1 else some (s.step1, d)

/-- The re-arming of the timer with the delay of an activation (40_led.md R100). -/
def State.armTimer (s : State) (d : Word) : State := { s with ledDelay := d, timerArmed := true, timerRem := d }

/-- `Activation`: the loop takes at most 8 steps (40_led.md R100, R101); `none` only from a mask that is not
one-hot. -/
def State.activation (s : State) : Option State :=
  (s.stepUntilDelay 8).map fun r => r.1.armTimer r.2

/-- An activation as the outcome of a step (log 8). -/
def State.activate (s : State) : StepOutcome :=
  match s.activation with
  | some s' => .next s'
  | none => .fault .sequencerStuck

/-! ## The step timer -/

/-- The step timer counts (40_led.md R102). -/
def State.tickEnabled (s : State) : Bool := !s.halted && s.ledEn && s.timerArmed

/-- `Tick` (40_led.md R102). -/
def State.tick (s : State) : StepOutcome :=
  if s.tickEnabled then
    if s.timerRem.toNat ≤ 1 then { s with timerArmed := false }.activate
    else .next { s with timerRem := s.timerRem - 1 }
  else .next s

/-- The LED_EN edge of a CTRL write with bit 0 = `on`: a rising edge arms the timer with 1 (40_led.md R103), a falling
edge disarms it (40_led.md R104). -/
def State.ledEnEdge (s : State) (on : Bool) : State :=
  match s.ledEn, on with
  | false, true => { s with timerArmed := true, timerRem := 1 }
  | true, false => { s with timerArmed := false, timerRem := 0 }
  | false, false => s
  | true, true => s

/-- A write of v to CTRL: the edge actions first, then the three fields (10_state.md R40); ignored while HALTED. -/
def State.writeCtrl (s : State) (v : Word) : State :=
  if s.halted then s
  else
    { s.ledEnEdge (v.getLsbD 0) with
      ledEn := v.getLsbD 0, mode := modeOfBit (v.getLsbD 1), intenEnd := v.getLsbD 2 }

/-- A write of v to IMGj (10_state.md R46); ignored while HALTED. -/
def State.writeImg (s : State) (j : Fin 7) (v : Word) : State :=
  if s.halted then s else { s with img := storeImgWord j v s.img }

/-! ## The radio -/

/-- The effect of RADIO_CONFIGURE: halts while armed (41_radio.md R111). -/
def State.configureRadio (s : State) (group : Byte) : State :=
  if s.radioRx then s.raiseHalt .haltConfigNotDisabled
  else { s with radioGroup := group, radioConfigured := true }

/-- The effect of RADIO_START_RX (41_radio.md R113). -/
def State.startReceive (s : State) : State :=
  if s.radioConfigured = false then s.raiseErr .notConfigured
  else if s.radioEnd then s.raiseErr .framePending
  else { s with radioRx := true, intenEnd := true }

/-- RADIO_RECEIVE with a completed frame that passed its CRC (41_radio.md R117). -/
def State.takeFrame (s : State) : State :=
  let n := copyLength s.cfg s.rxbuf[0]
  { s with radioEnd := false, rxdata := copyFirst n s.rxbuf s.rxdata, rxLen := BitVec.ofNat 32 n }

/-- RADIO_RECEIVE with a completed frame that failed its CRC (41_radio.md R119). -/
def State.dropFrame (s : State) : State := { s with radioEnd := false, rxLen := 0 }

/-- The effect of RADIO_RECEIVE (41_radio.md R117). -/
def State.receive (s : State) : State :=
  if s.radioEnd = false then { s with rxLen := 0 }.raiseErr .noFrame
  else if s.radioCrcok then s.takeFrame
  else s.dropFrame

/-- A frame may be delivered (41_radio.md R114). -/
def State.frameEnabled (s : State) : Bool := !s.halted && s.radioRx

/-- The delivery of an accepted frame, one atomic step (41_radio.md R114). -/
def State.storeFrame (s : State) (f : Frame) : State :=
  { s with
    rxbuf := storeBytes (keptLength s.cfg f) f.bytes s.rxbuf
    radioCrcok := f.crcOk
    radioEnd := true
    radioRx := false }

/-- `Frame(base, prefix, b, crc_ok)` (41_radio.md R114): nothing changes where it is not enabled (R121) or the frame is
not for this receiver (R115). -/
def State.deliver (s : State) (f : Frame) : State :=
  if s.frameEnabled && frameMatches s.cfg s.radioGroup f then s.storeFrame f else s

/-! ## The control family -/

/-- The effect of ERR_CLEAR (42_control.md R130). -/
def State.clearErr (s : State) : State := { s with err := 0 }

/-! ## Reset -/

/-- The event resets the block (70_reset_and_hazards.md R166). -/
def resetsBlock (c : Config) : ResetSource → Bool
  | .powerOn => true
  | .platform id => c.resetSources.contains id

/-- The block after reset, whatever its state before (70_reset_and_hazards.md R165). The host's fields and the model's
own stand (log 5). -/
def State.resetBlock (s : State) : State :=
  { State.resetWith s.cfg with
    hostHandlers := s.hostHandlers
    hostRequests := s.hostRequests
    hostCritical := s.hostCritical
    hostData := s.hostData
    agenda := s.agenda
    choices := s.choices }

/-- A reset event (70_reset_and_hazards.md R165, R166). -/
def State.resetEvent (s : State) (src : ResetSource) : State := if resetsBlock s.cfg src then s.resetBlock else s

/-! ## The host's contexts -/

/-- The interrupt requests that wait at the host now, in the order of their occurrence (60_exceptions.md R154). The
radio's request is the level of the block's line (R147): a line found asserted that was not takes its place after those
already waiting, a line found deasserted gives its place up. -/
def State.requests (s : State) : List IrqSource :=
  if s.irqRadioEnd then
    if s.hostRequests.contains .radioFrameComplete then s.hostRequests else s.hostRequests ++ [.radioFrameComplete]
  else s.hostRequests.filter (· != .radioFrameComplete)

/-- The host notes its line: done before every event, so that the line's place is that of its last rise (log 7). -/
def State.noteRequests (s : State) : State := { s with hostRequests := s.requests }

/-- A device outside the block requests an interrupt: its request waits after those that came before it; one that already
waits keeps its place (60_exceptions.md R148, R154). -/
def State.request (s : State) (src : IrqSource) : State :=
  if src = .radioFrameComplete ∨ src ∈ s.requests then s else { s with hostRequests := s.requests ++ [src] }

/-- The running context gives way to the source: the main program always, a handler only to a source of higher priority
(60_exceptions.md R154, log 7). -/
def State.yieldsTo (s : State) (src : IrqSource) : Bool :=
  match s.hostHandlers with
  | [] => true
  | top :: _ => decide (irqPriority s.cfg top < irqPriority s.cfg src)

/-- The most urgent of a list of requests: the highest priority, and among equal priorities the earliest occurrence
(60_exceptions.md R154). -/
def mostUrgent (c : Config) : List IrqSource → Option IrqSource
  | [] => none
  | src :: rest =>
    match mostUrgent c rest with
    | none => some src
    | some other => if irqPriority c src < irqPriority c other then some other else some src

/-- The one source whose handler may start next: the most urgent of the waiting requests whose handler is not running
already (60_exceptions.md R151, R154). -/
def State.nextIrq (s : State) : Option IrqSource :=
  mostUrgent s.cfg (s.requests.filter fun src => !s.hostHandlers.contains src)

/-- The requests that wait once the handler of a source has started: a device's request is served by that, the radio's
stands while its line is asserted (60_exceptions.md R149). -/
def State.requestsAfter (s : State) (src : IrqSource) : List IrqSource :=
  if src = .radioFrameComplete then s.requests else s.requests.filter (· != src)

/-- The host takes an interrupt: not inside a critical section (60_exceptions.md R152), only the most urgent request, and
only where the running context gives way to it (R154). The block saves nothing and changes nothing (R150). -/
def State.takeIrq (s : State) (src : IrqSource) : State :=
  if !s.hostCritical && s.nextIrq == some src && s.yieldsTo src then
    { s with hostHandlers := src :: s.hostHandlers, hostRequests := s.requestsAfter src }
  else s

/-- The innermost handler returns; it has released its critical section before it returns (60_exceptions.md R151,
R153). -/
def State.returnFromIrq (s : State) : State :=
  if s.hostCritical then s else { s with hostHandlers := s.hostHandlers.tail }

/-- The host disables its interrupts (60_exceptions.md R152). -/
def State.beginCritical (s : State) : State := { s with hostCritical := true }

/-- The host enables its interrupts again (60_exceptions.md R152). -/
def State.endCritical (s : State) : State := { s with hostCritical := false }

end Sys2Proof.Machine
end

