-- ==== Sys2Proof/Machine/Control.lean ====
section
/-! DEFINITION. The control family: ERR_CLEAR and the words that select no command (42_control.md R130 to R132). Each is
ignored while HALTED (30_encoding.md R74). -/

namespace Sys2Proof.Machine

/-- ERR_CLEAR (42_control.md R130). -/
def execErrClear (s : State) : StepOutcome := unlessHalted s (.next s.clearErr)

/-- A word that selects no command records its error and changes nothing else (42_control.md R131, R132). -/
def rejectWord (e : DecodeError) (s : State) : StepOutcome := unlessHalted s (.next (s.raiseErr (decodeErrCode e)))

end Sys2Proof.Machine
end

