-- ==== Sys2Proof/Machine/Led.lean ====
section
/-! DEFINITION. The LED family's commands (40_led.md R86 to R88). Each is ignored while HALTED (30_encoding.md R74). -/

namespace Sys2Proof.Machine

/-- LED_SUBMIT (40_led.md R86). -/
def execLedSubmit (s : State) : StepOutcome := unlessHalted s (.next s.submit)

/-- LED_CLEAR (40_led.md R87). -/
def execLedClear (s : State) : StepOutcome := unlessHalted s (.next s.clearLines)

/-- LED_STEP (40_led.md R88): one activation, whatever LED_EN is. -/
def execLedStep (s : State) : StepOutcome := unlessHalted s s.activate

end Sys2Proof.Machine
end

