-- ==== Sys2Proof/Machine/Radio.lean ====
section
/-! DEFINITION. The radio family's commands (41_radio.md R111, R113, R117). Each is ignored while HALTED
(30_encoding.md R74). -/

namespace Sys2Proof.Machine

/-- RADIO_CONFIGURE (41_radio.md R111). -/
def execRadioConfigure (group : Byte) (s : State) : StepOutcome := unlessHalted s (.next (s.configureRadio group))

/-- RADIO_START_RX (41_radio.md R113). -/
def execRadioStartRx (s : State) : StepOutcome := unlessHalted s (.next s.startReceive)

/-- RADIO_RECEIVE (41_radio.md R117). -/
def execRadioReceive (s : State) : StepOutcome := unlessHalted s (.next s.receive)

end Sys2Proof.Machine
end

