-- ==== Sys2Proof/Machine/Dispatch.lean ====
section
/-! DEFINITION. One arm per command of spec/opcode_table.json. -/

namespace Sys2Proof.Machine

/-- The meaning of a command, at any state (30_encoding.md R73, R74). -/
def exec (i : Instr) (s : State) : Host.Outcome State Fault Refusal :=
  match i with
  | .ledSubmit => Sys2Proof.Machine.execLedSubmit s
  | .ledClear => Sys2Proof.Machine.execLedClear s
  | .ledStep => Sys2Proof.Machine.execLedStep s
  | .radioConfigure group => Sys2Proof.Machine.execRadioConfigure group s
  | .radioStartRx => Sys2Proof.Machine.execRadioStartRx s
  | .radioReceive => Sys2Proof.Machine.execRadioReceive s
  | .errClear => Sys2Proof.Machine.execErrClear s

end Sys2Proof.Machine
end

