-- ==== Sys2Proof/Machine/Access.lean ====
section
/-! DEFINITION. The host's register accesses and the steps of every agent (10_state.md R37 to R48; 20_memory.md R53 to
R60; 30_encoding.md R74; 00_scope.md R5). -/

namespace Sys2Proof.Machine

/-- The value of a register (10_state.md R38 to R48). -/
def readReg (s : State) : Reg → Word
  | .cmd => 0
  | .status => statusWord s
  | .ctrl => ctrlWord s
  | .ledDelay => s.ledDelay
  | .timerRem => s.timerRem
  | .lines => linesWord s
  | .radioGroup => s.radioGroup.setWidth 32
  | .rxLen => s.rxLen
  | .img j => packWord s.img j.val
  | .rxdata j => packWord s.rxdata j.val
  | .active j => packWord s.active j.val
  | .pending j => packWord s.pending j.val

/-- `reg[off]`: the value a host read at an offset returns; a reserved offset reads 0 (20_memory.md R54, R55). -/
def readOffset (s : State) (off : Offset) : Word :=
  match regAt off with
  | some r => readReg s r
  | none => 0

/-- `Cmd(w)`: a write of w to CMD (30_encoding.md R74). -/
def command (w : Word) (s : State) : StepOutcome :=
  match decode w with
  | .ok i => exec i s
  | .error e => rejectWord e s

/-- A host write of v to a register; a write to a read-only register is ignored (10_state.md R37, 20_memory.md R56,
R60). -/
def writeReg (r : Reg) (v : Word) (s : State) : StepOutcome :=
  match r with
  | .cmd => command v s
  | .ctrl => .next (s.writeCtrl v)
  | .img j => .next (s.writeImg j v)
  | .status => .next s
  | .ledDelay => .next s
  | .timerRem => .next s
  | .lines => .next s
  | .radioGroup => .next s
  | .rxLen => .next s
  | .rxdata _ => .next s
  | .active _ => .next s
  | .pending _ => .next s

/-- `RegWrite(off, v)`; a write to a reserved offset is ignored (20_memory.md R54, R55). -/
def writeOffset (off : Offset) (v : Word) (s : State) : StepOutcome :=
  match regAt off with
  | some r => writeReg r v s
  | none => .next s

/-- One act of the host. An access that is not admitted is a bus error (20_memory.md R53), while HALTED too: DESIGN CHOICE
(log 16), since R60 has every write ignored with no error then. A read changes no state of the block and hands its word to the host (20_memory.md R58, log 6); a fence reaches no register of the block
(20_memory.md R65). -/
def hostStep (op : HostOp) (s : State) : StepOutcome :=
  match op with
  | .read size off =>
    if accessAdmitted size off then .next { s with hostData := readOffset s off } else .fault .busError
  | .write size off v => if accessAdmitted size off then writeOffset off v s else .fault .busError
  | .testEnd => .next { s with hostData := readOffset s Reg.status.offset }
  | .fence => .next s
  | .beginCritical => .next s.beginCritical
  | .endCritical => .next s.endCritical
  | .takeIrq src => .next (s.takeIrq src)
  | .returnFromIrq => .next s.returnFromIrq

/-- One step of the agent that an event names (00_scope.md R5), one atomic transition (20_memory.md R61). -/
def perform (e : Event) (s : State) : StepOutcome :=
  match e with
  | .host op => hostStep op s
  | .tick => s.tick
  | .frame f => .next (s.deliver f)
  | .reset src => .next (s.resetEvent src)
  | .request src => .next (s.request src)

/-- The event that happens next: the head of the agenda, or any event at all where the agenda is empty
(20_memory.md R63, log 2). -/
def nextEvent (s : State) : Event :=
  match s.agenda with
  | e :: _ => e
  | [] => Config.environment s.choices

/-- The state with that event taken. -/
def dropEvent (s : State) : State :=
  match s.agenda with
  | _ :: rest => { s with agenda := rest }
  | [] => { s with choices := s.choices + 1 }

/-- The host's write of a command word to CMD, as an event. -/
def commandEvent (w : Word) : Event := .host (.write .bits32 Reg.cmd.offset w)

/-- The word of a table row, for placing: as `tableWord`, every bit above the format dropped. -/
def placedWord (nbits w : Nat) : Word := BitVec.ofNat 32 (w % 2 ^ nbits)

end Sys2Proof.Machine
end

