-- ==== Sys2Proof/Machine/Step.lean ====
section
/-! DEFINITION. The step of the machine, and the placing of a command so that the next step runs it. -/

namespace Sys2Proof.Machine

/-- One step: the next event happens (20_memory.md R61, R63, R64), after the host has noted its line (log 7). -/
def step (s : State) : Host.Outcome State Fault Refusal := perform (nextEvent s) (dropEvent s).noteRequests

/-- The state in which the very next step is the host's write of a word to CMD (30_encoding.md R74, log 10). -/
def State.withFetchWord (s : State) (nbits w : Nat) : State :=
  { s with agenda := commandEvent (placedWord nbits w) :: s.agenda }

end Sys2Proof.Machine
end

