-- ==== Sys2Proof/Machine/Script.lean ====
section
/-! DEFINITION. Host scripts: the script lines (30_encoding.md R79), the pseudo-instructions and their expansions
(30_encoding.md R80), the receive sequence (70_reset_and_hazards.md R171), the boot sequence (70_reset_and_hazards.md
R168), and the events they stand for. -/

namespace Sys2Proof.Machine

/-- One line of a host script (30_encoding.md R79). -/
inductive ScriptLine where
  | cmd (i : Instr)
  | wr (r : Reg) (v : Word)
  | rd (r : Reg)
  | fence
  | tick (n : Nat)
  | frame (f : Frame)
  | reset
deriving DecidableEq, Repr

/-- The raw access `W off v` (30_encoding.md R78). -/
def rawWrite (off : Offset) (v : Word) : HostOp := .write .bits32 off v

/-- The raw access `R off` (30_encoding.md R78). -/
def rawRead (off : Offset) : HostOp := .read .bits32 off

/-- The events a script line stands for, in order (30_encoding.md R79). -/
def lineEvents : ScriptLine → List Event
  | .cmd i => [.host (rawWrite Reg.cmd.offset (encode i))]
  | .wr r v => [.host (rawWrite r.offset v)]
  | .rd r => [.host (rawRead r.offset)]
  | .fence => [.host .fence]
  | .tick n => List.replicate n .tick
  | .frame f => [.frame f]
  | .reset => [.reset .powerOn]

/-- The events of a script. -/
def scriptEvents (lines : List ScriptLine) : List Event := lines.flatMap lineEvents

/-- `submit [v0, …, v24]` (30_encoding.md R80). -/
def submitLines (image : Vector Byte 25) : List ScriptLine :=
  ((List.finRange 7).map fun j => .wr (.img j) (packWord image j.val)) ++ [.cmd .ledSubmit]

/-- `led.start`, where the read of CTRL returns c (30_encoding.md R80). -/
def ledStartLines (c : Word) : List ScriptLine := [.rd .ctrl, .wr .ctrl (c ||| 0x1)]

/-- `led.stop`, where the read of CTRL returns c (30_encoding.md R80). -/
def ledStopLines (c : Word) : List ScriptLine := [.rd .ctrl, .wr .ctrl (c &&& ~~~0x1), .cmd .ledClear]

/-- `led.mode m`, where the read of CTRL returns c (30_encoding.md R80). -/
def ledModeLines (c : Word) (m : LedMode) : List ScriptLine :=
  [.rd .ctrl, .wr .ctrl ((c &&& ~~~0x2) ||| (if m.bit then 0x2 else 0x0))]

/-- `radio.arm` (30_encoding.md R80). -/
def radioArmLines : List ScriptLine := [.fence, .cmd .radioStartRx, .fence]

/-- The reads `rd RXDATA0` to `rd RXDATA((n-1) div 4)`, none where n = 0 (30_encoding.md R80). -/
def rxdataReads (n : Nat) : List ScriptLine := ((List.finRange 16).take ((n + 3) / 4)).map fun j => .rd (.rxdata j)

/-- `radio.take`, where the read of RX_LEN returns n (30_encoding.md R80). -/
def radioTakeLines (n : Nat) : List ScriptLine := [.fence, .cmd .radioReceive, .rd .rxLen] ++ rxdataReads n

/-- Lines issued inside one critical section (60_exceptions.md R152). -/
def criticalEvents (lines : List ScriptLine) : List Event :=
  [.host .beginCritical] ++ scriptEvents lines ++ [.host .endCritical]

/-- The radio handler's receive sequence, always re-arming (70_reset_and_hazards.md R171, R172). -/
def receiveSequence (n : Nat) : List Event := criticalEvents (radioTakeLines n ++ radioArmLines)

/-- The receive sequence of a handler that tests RADIO_END first, after one fence for the test and the RADIO_RECEIVE
(95_test_vectors.md P2). -/
def testedReceiveSequence (n : Nat) : List Event :=
  [.host .beginCritical, .host .fence, .host .testEnd]
    ++ scriptEvents ([.cmd .radioReceive, .rd .rxLen] ++ rxdataReads n ++ radioArmLines) ++ [.host .endCritical]

/-- The boot sequence: LED_CLEAR, the mode and the first image where there is one, RADIO_CONFIGURE, the arming, the
start of the sequencer (70_reset_and_hazards.md R168). `cMode` and `cStart` are what the two reads of CTRL return. -/
def bootLines (mode : Option LedMode) (image : Option (Vector Byte 25)) (group : Byte) (cMode cStart : Word) :
    List ScriptLine :=
  [.cmd .ledClear]
    ++ (match mode with
        | some m => ledModeLines cMode m
        | none => [])
    ++ (match image with
        | some v => submitLines v
        | none => [])
    ++ [.cmd (.radioConfigure group)] ++ radioArmLines ++ ledStartLines cStart

/-- The events happen one after another, the host noting its line before each as a step does; the first fault or refusal
ends the run (20_memory.md R62, R64). -/
def runEvents : List Event → State → StepOutcome
  | [], s => .next s
  | e :: rest, s =>
    match perform e s.noteRequests with
    | .next t => runEvents rest t
    | .fault f => .fault f
    | .refused r => .refused r

end Sys2Proof.Machine
end

