-- ==== Sys2Proof/Safety.lean ====
section
/-! DEFINITION. What counts as a safe run (60_exceptions.md R146), the invariants of the machine, and the duties of the
host (20_memory.md R65; 41_radio.md R123; 60_exceptions.md R152, R153; 70_reset_and_hazards.md section 2). -/

namespace Sys2Proof.Machine

/-! ## Runs -/

/-- The state of an outcome, where it has one. -/
def stateOf : StepOutcome → Option State
  | .next s => some s
  | .fault _ => none
  | .refused _ => none

/-- `k` steps that neither stop nor reach HALTED: a run that has not failed (60_exceptions.md R146,
70_reset_and_hazards.md R186). -/
def safeRun : Nat → State → Bool
  | 0, s => !s.halted
  | k + 1, s =>
    !s.halted &&
      match step s with
      | .next t => safeRun k t
      | .fault _ => false
      | .refused _ => false

/-! ## Invariants -/

/-- The cursor mask is one-hot (10_state.md R22, 40_led.md R107). -/
abbrev State.CursorSound (s : State) : Prop := oneHot s.mask = true

/-- An armed timer has at least one tick left (40_led.md R106); a disarmed one has none; it is armed while LED_EN = 1
(40_led.md R102 to R104). -/
abbrev State.TimerSound (s : State) : Prop :=
  (s.timerArmed = true → 1 ≤ s.timerRem.toNat) ∧ (s.timerArmed = false → s.timerRem = 0) ∧
    (s.ledEn = true → s.timerArmed = true)

/-- The receiver is in one of its four situations (41_radio.md R110). -/
abbrev State.RadioSound (s : State) : Prop := s.situation ≠ none

/-- RX_LEN is at most P_RX_CAP, and no byte at or above P_RX_CAP was ever written (10_state.md R32, R45; log 9). -/
abbrev State.ReceiveSound (s : State) : Prop :=
  s.rxLen.toNat ≤ s.cfg.rxCap ∧ ∀ i : Fin 64, s.cfg.rxCap ≤ i.val → s.rxbuf[i] = 0 ∧ s.rxdata[i] = 0

/-- The cells that no logical cell maps to are 0 in both buffers (10_state.md R19, 40_led.md R108). -/
abbrev State.UnmappedDark (s : State) : Prop :=
  ∀ q : Fin 27, (∀ k : Fin 25, mappedIndex s.cfg k ≠ q) → s.pending[q] = 0 ∧ s.active[q] = 0

/-- At most one row line is active, that of the cursor's row (40_led.md R91). -/
abbrev State.RowLinesSound (s : State) : Prop := ∀ r : Fin 3, s.rowAct[r] = true → r = s.row

/-- The error code is one that the spec names, and it is 15 exactly while HALTED, which only an armed receiver reaches
(60_exceptions.md R141, R145). -/
abbrev State.ErrorSound (s : State) : Prop :=
  (s.err.toNat ≤ 5 ∨ s.err = 15) ∧ (s.halted = true ↔ s.err = 15) ∧ (s.halted = true → s.radioRx = true)

/-- Each running handler has a higher priority than those it interrupted, so none is running twice (60_exceptions.md
R151, R154; log 7). -/
abbrev State.HandlersSound (s : State) : Prop :=
  s.hostHandlers.Pairwise fun inner outer => irqPriority s.cfg outer < irqPriority s.cfg inner

/-- No request waits twice (60_exceptions.md R154; log 7). -/
abbrev State.RequestsSound (s : State) : Prop := s.hostRequests.Nodup

/-- All the invariants together. -/
abbrev State.Inv (s : State) : Prop :=
  s.CursorSound ∧ s.TimerSound ∧ s.RadioSound ∧ s.ReceiveSound ∧ s.UnmappedDark ∧ s.RowLinesSound ∧ s.ErrorSound ∧
    s.HandlersSound ∧ s.RequestsSound

/-- The receiver is armed, or holds a completed frame with the line asserted (41_radio.md R124). -/
abbrev State.Listening (s : State) : Prop :=
  s.halted = false ∧ s.radioConfigured = true ∧ (s.radioRx = true ∨ (s.radioEnd = true ∧ s.irqRadioEnd = true))

/-! ## What an event is -/

/-- The event is the host's write to CMD of a word that decodes to the command. -/
abbrev issues (e : Event) (i : Instr) : Prop := ∃ w, e = commandEvent w ∧ decode w = .ok i

/-- The event resets the block of the state. -/
abbrev resets (e : Event) (s : State) : Prop := ∃ src, e = .reset src ∧ resetsBlock s.cfg src = true

/-- The event may run an activation: a tick, or the host's LED_STEP. -/
abbrev activates (e : Event) : Prop := e = .tick ∨ issues e .ledStep

/-! ## The duties of the host

Each is a check of the host's acts alone, in the order the host issues them. -/

/-- The host's acts among events. -/
def hostOps (es : List Event) : List HostOp :=
  es.filterMap fun e =>
    match e with
    | .host op => some op
    | .tick => none
    | .frame _ => none
    | .reset _ => none
    | .request _ => none

/-- The command an act issues. -/
def commandOf : HostOp → Option Instr
  | .write .bits32 off v => if off = Reg.cmd.offset then (decode v).toOption else none
  | .write .bits16 _ _ => none
  | .write .bits8 _ _ => none
  | .read _ _ => none
  | .testEnd => none
  | .fence => none
  | .beginCritical => none
  | .endCritical => none
  | .takeIrq _ => none
  | .returnFromIrq => none

/-- The act reads the register. -/
def readsReg (op : HostOp) (r : Reg) : Bool := op == rawRead r.offset || (op == .testEnd && r == .status)

/-- The act writes the register. -/
def writesReg (op : HostOp) (r : Reg) : Bool :=
  match op with
  | .write size off _ => size == .bits32 && off == r.offset
  | .read _ _ => false
  | .testEnd => false
  | .fence => false
  | .beginCritical => false
  | .endCritical => false
  | .takeIrq _ => false
  | .returnFromIrq => false

/-- A RADIO_RECEIVE follows before the critical section or the running context ends. -/
def receiveFollows : List HostOp → Bool
  | [] => false
  | op :: rest =>
    match op with
    | .endCritical => false
    | .takeIrq _ => false
    | .returnFromIrq => false
    | .write _ _ _ => commandOf op == some .radioReceive || receiveFollows rest
    | .read _ _ => receiveFollows rest
    | .testEnd => receiveFollows rest
    | .fence => receiveFollows rest
    | .beginCritical => receiveFollows rest

/-- The act, followed by the others, reads STATUS to test RADIO_END (20_memory.md R65). DESIGN CHOICE (log 11): the host says
so, or a RADIO_RECEIVE that the read may decide follows it. -/
def testsEnd (op : HostOp) (rest : List HostOp) : Bool :=
  op == .testEnd || (readsReg op .status && receiveFollows rest)

/-- A fence immediately before and after every RADIO_START_RX; immediately before every test of RADIO_END; and before every
RADIO_RECEIVE, where at most the test stands between (20_memory.md R65, 70_reset_and_hazards.md R174, 90_conflicts.md C5,
log 11). `last`: the act before the list. -/
def fencesKept : Option HostOp → List HostOp → Bool
  | _, [] => true
  | last, op :: rest =>
    (if commandOf op = some .radioStartRx then last == some .fence && rest.head? == some .fence
     else if commandOf op = some .radioReceive then last == some .fence || last.any (readsReg · .status)
     else if testsEnd op rest then last == some .fence
     else true) && fencesKept (some op) rest

/-- Every RADIO_RECEIVE is followed by a RADIO_START_RX before the critical section or the handler ends (41_radio.md
R123, 70_reset_and_hazards.md R172). `owes`: a re-arming is due. -/
def rearmKept : Bool → List HostOp → Bool
  | owes, [] => !owes
  | owes, op :: rest =>
    if commandOf op = some .radioReceive then rearmKept true rest
    else if commandOf op = some .radioStartRx then rearmKept false rest
    else if op = .endCritical ∨ op = .returnFromIrq then !owes && rearmKept owes rest
    else rearmKept owes rest

/-- Every access stands inside a critical section, sections do not nest, and each ends before its handler returns
(60_exceptions.md R152, R153). `held`: inside a section. -/
def criticalKept : Bool → List HostOp → Bool
  | held, [] => !held
  | held, .read _ _ :: rest => held && criticalKept held rest
  | held, .testEnd :: rest => held && criticalKept held rest
  | held, .write _ _ _ :: rest => held && criticalKept held rest
  | held, .beginCritical :: rest => !held && criticalKept true rest
  | held, .endCritical :: rest => held && criticalKept false rest
  | held, .returnFromIrq :: rest => !held && criticalKept held rest
  | held, .takeIrq _ :: rest => !held && criticalKept held rest
  | held, .fence :: rest => criticalKept held rest

/-- RADIO_CONFIGURE stands only before the first RADIO_START_RX or between a RADIO_RECEIVE and the next RADIO_START_RX
(70_reset_and_hazards.md R173). `mayBeArmed`: the receiver may be armed. -/
def configureKept : Bool → List HostOp → Bool
  | _, [] => true
  | mayBeArmed, op :: rest =>
    match commandOf op with
    | some (.radioConfigure _) => !mayBeArmed && configureKept mayBeArmed rest
    | some .radioStartRx => configureKept true rest
    | some .radioReceive => configureKept false rest
    | some .ledSubmit => configureKept mayBeArmed rest
    | some .ledClear => configureKept mayBeArmed rest
    | some .ledStep => configureKept mayBeArmed rest
    | some .errClear => configureKept mayBeArmed rest
    | none => configureKept mayBeArmed rest

/-- Where the last write to a word of IMG stands, as the host's acts so far have it. -/
inductive Staged where
  /-- No write since reset: the word holds its reset value. -/
  | untouched
  /-- Written in this critical section and not yet submitted. -/
  | staged
  /-- Written in this critical section and submitted in it. -/
  | submitted
  /-- Written before this critical section. -/
  | earlier
deriving DecidableEq, Repr

/-- Once the critical section or the running context changes, every write stands in an earlier one. -/
def Staged.afterSection : Staged → Staged
  | .untouched => .untouched
  | .staged => .earlier
  | .submitted => .earlier
  | .earlier => .earlier

/-- A LED_SUBMIT has taken the word. -/
def Staged.afterSubmit : Staged → Staged
  | .untouched => .untouched
  | .staged => .submitted
  | .submitted => .submitted
  | .earlier => .earlier

/-- The word of IMG that an act writes. -/
def imgWritten (op : HostOp) : Option (Fin 7) := (List.finRange 7).find? fun j => writesReg op (.img j)

/-- The writes to IMG0 to IMG6 and the LED_SUBMIT that consumes them stand in one critical section (70_reset_and_hazards.md
R169). A LED_SUBMIT consumes the last write to each of the seven words, so none of these may stand in an earlier section;
and what a section has written it submits before it ends (log 11). `words`: where the last write to each of the seven words
stands, in their order. -/
def stagingKept : List Staged → List HostOp → Bool
  | words, [] => !words.contains .staged
  | words, op :: rest =>
    match op with
    | .write _ _ _ =>
      match imgWritten op with
      | some j => stagingKept (words.set j.val .staged) rest
      | none =>
        if commandOf op = some .ledSubmit then
          !words.contains .earlier && stagingKept (words.map Staged.afterSubmit) rest
        else stagingKept words rest
    | .endCritical => !words.contains .staged && stagingKept (words.map Staged.afterSection) rest
    | .beginCritical => stagingKept (words.map Staged.afterSection) rest
    | .takeIrq _ => stagingKept (words.map Staged.afterSection) rest
    | .returnFromIrq => stagingKept (words.map Staged.afterSection) rest
    | .read _ _ => stagingKept words rest
    | .testEnd => stagingKept words rest
    | .fence => stagingKept words rest

/-- RX_LEN and RXDATA are read only in the critical section of the RADIO_RECEIVE that wrote them, before the receiver is
armed again (70_reset_and_hazards.md R171). `taken`: this section holds a RADIO_RECEIVE and no RADIO_START_RX after it. -/
def takingKept : Bool → List HostOp → Bool
  | _, [] => true
  | taken, op :: rest =>
    if commandOf op = some .radioReceive then takingKept true rest
    else if commandOf op = some .radioStartRx ∨ op = .endCritical then takingKept false rest
    else if readsReg op .rxLen || (List.finRange 16).any fun j => readsReg op (.rxdata j) then
      taken && takingKept taken rest
    else takingKept taken rest

/-- How far a host context's read-modify-write of CTRL has come. -/
inductive CtrlUse where
  | idle
  /-- CTRL was read in this critical section. -/
  | fresh
  /-- CTRL was read in an earlier one, or before a handler interrupted. -/
  | stale
deriving DecidableEq, Repr

/-- Once other contexts may have run, a value read from CTRL is stale. -/
def CtrlUse.afterOthers : CtrlUse → CtrlUse
  | .idle => .idle
  | .fresh => .stale
  | .stale => .stale

/-- A write to CTRL that follows a read of it by the same host context stands in the critical section of that read
(70_reset_and_hazards.md R181). `u` is the running context's use, `outer` those of the contexts it interrupted, innermost
first: a handler starts with a use of its own and gives the interrupted context's back when it returns. -/
def ctrlKept : CtrlUse → List CtrlUse → List HostOp → Bool
  | _, _, [] => true
  | u, outer, op :: rest =>
    match op with
    | .read _ _ => if readsReg op .ctrl then ctrlKept .fresh outer rest else ctrlKept u outer rest
    | .write _ _ _ => if writesReg op .ctrl then u != .stale && ctrlKept .idle outer rest else ctrlKept u outer rest
    | .endCritical => ctrlKept u.afterOthers outer rest
    | .takeIrq _ => ctrlKept .idle (u.afterOthers :: outer) rest
    | .returnFromIrq => ctrlKept (outer.headD .idle) outer.tail rest
    | .testEnd => ctrlKept u outer rest
    | .fence => ctrlKept u outer rest
    | .beginCritical => ctrlKept u outer rest

/-- All the duties of the host, over its acts from reset. -/
def hostDutiesKept (ops : List HostOp) : Bool :=
  fencesKept none ops && rearmKept false ops && criticalKept false ops && configureKept false ops &&
    stagingKept (List.replicate 7 .untouched) ops && takingKept false ops && ctrlKept .idle [] ops

end Sys2Proof.Machine
end

