-- ==== Sys2Proof/Certificates/Slice0/Obligations.lean ====
section
/-! DEFINITION. The statements for the provers: what the numbered rules of spec/ say the commands and the machine do. -/

open Sys2Proof Sys2Proof.Machine

/-! ## Encoding and decoding -/

/-- Decoding and encoding agree on every command and every word (30_encoding.md R71, R72, R73). -/
def Obligations.DecodeReadsExactlyEncodedWords : Prop :=
  ∀ (w : Word) (i : Instr), decode w = .ok i ↔ w = encode i

/-- 30_encoding.md R73: the seven match and mask pairs of the opcode map, with the group where R72 puts it; an OP value
not listed is illegal. -/
def Obligations.OpcodeMapMatchesSpec : Prop :=
  ∀ w : Word,
    (decode w = .ok .ledSubmit ↔ w &&& 0xFFFFFFFF = 0x01000000) ∧
    (decode w = .ok .ledClear ↔ w &&& 0xFFFFFFFF = 0x02000000) ∧
    (decode w = .ok .ledStep ↔ w &&& 0xFFFFFFFF = 0x03000000) ∧
    (∀ group : Byte, decode w = .ok (.radioConfigure group) ↔
      w &&& 0xFFFFFF00 = 0x10000000 ∧ w.extractLsb' 0 8 = group) ∧
    (decode w = .ok .radioStartRx ↔ w &&& 0xFFFFFFFF = 0x11000000) ∧
    (decode w = .ok .radioReceive ↔ w &&& 0xFFFFFFFF = 0x12000000) ∧
    (decode w = .ok .errClear ↔ w &&& 0xFFFFFFFF = 0x20000000) ∧
    (w.extractLsb' 24 8 ∉ [0x01#8, 0x02#8, 0x03#8, 0x10#8, 0x11#8, 0x12#8, 0x20#8] →
      decode w = .error .illegalOpcode)

/-- Words written out from 30_encoding.md R73 and 95_test_vectors.md decode to the commands they stand for. -/
def Obligations.SpecWordsDecode : Prop :=
  decode 0x01000000 = .ok .ledSubmit ∧ decode 0x1000002A = .ok (.radioConfigure 0x2A) ∧
  decode 0x12000000 = .ok .radioReceive ∧ decode 0x20000000 = .ok .errClear ∧
  decode 0x13000001 = .error .illegalOpcode ∧ decode 0x10000107 = .error .reservedArg

/-- 30_encoding.md R75: a word with an OP outside the map records error 1 and changes nothing else, whatever its ARG;
OP = 0x00 is such a word. While HALTED it is ignored (R74). -/
def Obligations.IllegalOpcodeIsRecorded : Prop :=
  (∀ (w : Word) (s : State),
    w.extractLsb' 24 8 ∉ [0x01#8, 0x02#8, 0x03#8, 0x10#8, 0x11#8, 0x12#8, 0x20#8] →
      decode w = .error .illegalOpcode ∧
      (s.halted = false → command w s = .next { s with err := 1 }) ∧
      (s.halted = true → command w s = .next s)) ∧
  ∀ op : Byte, op ∉ [0x01#8, 0x02#8, 0x03#8, 0x10#8, 0x11#8, 0x12#8, 0x20#8] ↔
    op.toNat = 0x00 ∨ (0x04 ≤ op.toNat ∧ op.toNat ≤ 0x0F) ∨ (0x13 ≤ op.toNat ∧ op.toNat ≤ 0x1F) ∨
      (0x21 ≤ op.toNat ∧ op.toNat ≤ 0xFF)

/-- 30_encoding.md R76: a word with a legal OP and a nonzero reserved ARG bit (R72) records error 2 and the command is
not executed; RADIO_CONFIGURE while armed does not halt on it. While HALTED it is ignored (R74). -/
def Obligations.ReservedArgumentIsRecorded : Prop :=
  ∀ (w : Word) (s : State),
    (w.extractLsb' 24 8 ∈ [0x01#8, 0x02#8, 0x03#8, 0x11#8, 0x12#8, 0x20#8] ∧ w.extractLsb' 0 24 ≠ 0 ∨
      w.extractLsb' 24 8 = 0x10#8 ∧ w.extractLsb' 8 16 ≠ 0) →
    decode w = .error .reservedArg ∧
    (s.halted = false → command w s = .next { s with err := 2 }) ∧
    (s.halted = true → command w s = .next s)

/-- 30_encoding.md R77: every word is one legal command of R73, no other and its own encoding, or an error of R75, or an
error of R76. Which of the three is said by the word's fields alone. -/
def Obligations.EveryWordHasOneOutcome : Prop :=
  ∀ w : Word,
    ((w.extractLsb' 24 8 ∈ [0x01#8, 0x02#8, 0x03#8, 0x11#8, 0x12#8, 0x20#8] ∧ w.extractLsb' 0 24 = 0 ∨
        w.extractLsb' 24 8 = 0x10#8 ∧ w.extractLsb' 8 16 = 0) ∧
      ∃! i : Instr, decode w = .ok i ∧ w = encode i) ∨
    (decode w = .error .illegalOpcode ∧
      w.extractLsb' 24 8 ∉ [0x01#8, 0x02#8, 0x03#8, 0x10#8, 0x11#8, 0x12#8, 0x20#8]) ∨
    (decode w = .error .reservedArg ∧
      (w.extractLsb' 24 8 ∈ [0x01#8, 0x02#8, 0x03#8, 0x11#8, 0x12#8, 0x20#8] ∧ w.extractLsb' 0 24 ≠ 0 ∨
        w.extractLsb' 24 8 = 0x10#8 ∧ w.extractLsb' 8 16 ≠ 0))

/-- The register map of 10_state.md R37: the offset of every register; each answers at its own word-aligned offset and at no
other. -/
def Obligations.RegisterOffsetsRoundTrip : Prop :=
  (∀ r : Reg, regAt r.offset = some r ∧ accessAdmitted .bits32 r.offset = true) ∧
  (∀ (off : Offset) (r : Reg), off.toNat % 4 = 0 → (regAt off = some r ↔ off = r.offset)) ∧
  (Reg.cmd.offset = 0x000 ∧ Reg.status.offset = 0x004 ∧ Reg.ctrl.offset = 0x008 ∧ Reg.ledDelay.offset = 0x00C ∧
    Reg.timerRem.offset = 0x010 ∧ Reg.lines.offset = 0x014 ∧ Reg.radioGroup.offset = 0x018 ∧ Reg.rxLen.offset = 0x01C) ∧
  (∀ j : Fin 7, (Reg.img j).offset.toNat = 0x040 + 4 * j.val ∧ (Reg.active j).offset.toNat = 0x100 + 4 * j.val ∧
    (Reg.pending j).offset.toNat = 0x120 + 4 * j.val) ∧
  ∀ j : Fin 16, (Reg.rxdata j).offset.toNat = 0x080 + 4 * j.val

/-! ## The step -/

/-- Where the next event is the host's write to CMD of a word that decodes to a command, the step is that command at the
state with the event taken off the agenda and the radio's line noted among the host's requests, which changes the list of
requests alone (30_encoding.md R74, 42_control.md R133; the agenda and the host's requests are the model's own, log 2 and
log 7). -/
def Obligations.StepRunsDecodedCommand : Prop :=
  ∀ (s : State) (w : Word) (i : Instr) (rest : List Event),
    s.agenda = .host (.write .bits32 0x000 w) :: rest → decode w = .ok i →
    step s = exec i { s with agenda := rest, hostRequests := s.requests }

/-- A command placed by `withFetchWord` (the model's own, log 10) is what the very next step runs, at the state it was
placed in with the radio's line noted (log 7), which at reset is that state itself. -/
def Obligations.PlacedCommandRunsNext : Prop :=
  ∀ (nbits w : Nat) (i : Instr), decodeTableWord nbits w = some i →
    (∀ s : State, step (s.withFetchWord nbits w) = exec i { s with hostRequests := s.requests }) ∧
    ∀ c : Config, step ((State.resetWith c).withFetchWord nbits w) = exec i (State.resetWith c)

/-- The machine performs the events of the agenda in their order, each once, and nothing else: `n` steps with `n` events
on the agenda are those events one after another (20_memory.md R62, R64; the agenda is the model's own, log 2). -/
def Obligations.StepsFollowAgenda : Prop :=
  ∀ (es rest : List Event) (s : State),
    Host.Core.run Sys2Proof.core es.length { s with agenda := es ++ rest } = runEvents es { s with agenda := rest }

/-- No step changes the configuration (10_state.md R15). -/
def Obligations.StepKeepsConfiguration : Prop :=
  ∀ s t : State, step s = .next t → t.cfg = s.cfg

/-- From a state with the invariants no step is refused, and a step faults only on a host access of the wrong size or
alignment (20_memory.md R53). -/
def Obligations.OnlyBusErrorsStopTheMachine : Prop :=
  ∀ s : State, s.Inv →
    (∀ r, step s ≠ .refused r) ∧
    (∀ f, step s = .fault f → f = .busError ∧ ∃ size off, accessAdmitted size off = false ∧
      (nextEvent s = .host (.read size off) ∨ ∃ v, nextEvent s = .host (.write size off v)))

/-! ## Invariants -/

/-- The machine right after reset has the invariants, under every configuration (10_state.md R50). That no handler runs and
no request waits then is the model's choice (log 7), and so is the receive buffer above P_RX_CAP (log 9). -/
def Obligations.ResetHasInvariants : Prop :=
  ∀ c : Config, (State.resetWith c).Inv

/-- Every step keeps the invariants: the one-hot mask, the timer's count, the receiver's situations, the length and the
untouched bytes of the receive buffers, the dark unmapped cells, the one row line, the error code, the handlers and requests
(10_state.md R22, R32, R45; 40_led.md R91, R106, R107; 41_radio.md R110; 60_exceptions.md R141, R145, R151; the handlers
and requests are the model's choice, log 7, and the bytes above P_RX_CAP too, log 9). -/
def Obligations.StepKeepsInvariants : Prop :=
  ∀ s t : State, s.Inv → step s = .next t → t.Inv

/-! ## The LED family -/

/-- 40_led.md R86: LED_SUBMIT puts each logical cell's intensity at its physical cell, leaves every other cell of the
pending buffer, marks the update, and changes nothing else, whether or not an earlier image still waits; a later write to
IMG does not change what was submitted. -/
def Obligations.SubmitMapsImageToPending : Prop :=
  decode 0x01000000 = .ok .ledSubmit ∧
  ∀ s : State,
    (s.halted = true → exec .ledSubmit s = .next s) ∧
    (s.halted = false → ∃ p : Vector Byte 27,
      exec .ledSubmit s = .next { s with pending := p, pendingUpdate := true } ∧
      (∀ k : Fin 25, cell p s.cfg.map[k].1 s.cfg.map[k].2 = s.img[k]) ∧
      ∀ (pr : Fin 3) (pc : Fin 9), (∀ k : Fin 25, s.cfg.map[k] ≠ (pr, pc)) → cell p pr pc = cell s.pending pr pc) ∧
    ∀ (j : Fin 7) (v : Word), ∃ t : State,
      perform (.host (.write .bits32 (Reg.img j).offset v)) s = .next t ∧ t.pending = s.pending

/-- 40_led.md R87: LED_CLEAR makes every drive line inactive, so LINES reads 0, and changes nothing else. -/
def Obligations.ClearDarkensEveryLine : Prop :=
  decode 0x02000000 = .ok .ledClear ∧
  ∀ s : State,
    (s.halted = true → exec .ledClear s = .next s) ∧
    (s.halted = false → ∃ t : State,
      t = { s with rowAct := Vector.replicate 3 false, colAct := Vector.replicate 9 false } ∧
      exec .ledClear s = .next t ∧ readOffset t 0x014 = 0)

/-- 40_led.md R88, R100: LED_STEP takes steps until one returns a nonzero delay, at most 8 of them, and re-arms the timer
with that delay in place of any pending expiry, whatever LED_EN is. That 8 steps are enough is derived (R101), and so is the
model's bound on its loop (log 8). -/
def Obligations.LedStepRunsOneActivation : Prop :=
  decode 0x03000000 = .ok .ledStep ∧
  ∀ s : State,
    (s.halted = true → exec .ledStep s = .next s) ∧
    (s.halted = false → s.mode = .rowCycle ∨ oneHot s.mask = true →
      ∃ (k : Nat) (d : Word), 1 ≤ k ∧ k ≤ 8 ∧ (∀ j, 1 ≤ j → j < k → (State.steps j s).stepDelay = some 0) ∧
        (State.steps k s).stepDelay = some d ∧ d ≠ 0 ∧
        exec .ledStep s = .next { State.steps k s with ledDelay := d, timerArmed := true, timerRem := d })

/-- The model's choice where no run comes (log 8): LED_STEP in bit-plane mode on a mask that is not one-hot, where the
spec's `ctz8` is not defined (00_scope.md R11), stops with a fault of its own name. -/
def Obligations.LedStepStopsOnBrokenMask : Prop :=
  ∀ s : State, s.halted = false → s.mode = .bitPlane → oneHot s.mask = false →
    exec .ledStep s = .fault .sequencerStuck

/-- What LED_STEP leaves unchanged: everything but the cursor, the lines, the active buffer, the update flag, and the
timer with its delay (40_led.md R88). -/
def Obligations.LedStepFrame : Prop :=
  ∀ s t : State, exec .ledStep s = .next t →
    t = { s with
          row := t.row, mask := t.mask, rowAct := t.rowAct, colAct := t.colAct, active := t.active
          pendingUpdate := t.pendingUpdate, ledDelay := t.ledDelay, timerArmed := t.timerArmed
          timerRem := t.timerRem } ∧
    (s.mode = .rowCycle → t.mask = s.mask)

/-- 40_led.md R91, R92, R94, R96: one row-cycle step turns the current row off, advances the row modulo 3, commits where
row 0 is reached with an update pending, turns the new row on, drives column c exactly where the active cell is nonzero,
and returns P_ROW_PERIOD; nothing else changes. At most one row line is active after it if at most the current one was
before (derived in R91). LED_STEP in this mode is one such step (R88, R100, derived in R101). -/
def Obligations.RowCycleStep : Prop :=
  ∀ s : State, s.mode = .rowCycle →
    ∃ (r : Fin 3) (a : Vector Byte 27),
      r.val = (s.row.val + 1) % 3 ∧
      (r = 0 ∧ s.pendingUpdate = true → a = s.pending) ∧
      (¬(r = 0 ∧ s.pendingUpdate = true) → a = s.active) ∧
      s.step1 =
        { s with
          row := r
          rowAct := (s.rowAct.set s.row.val false).set r.val true
          active := a
          pendingUpdate := s.pendingUpdate && r != 0
          colAct := Vector.ofFn fun c => cell a r c != 0 } ∧
      s.step1.stepDelay = some s.cfg.rowPeriod ∧
      (s.RowLinesSound → s.step1.RowLinesSound) ∧
      (s.halted = false → exec .ledStep s =
        .next { s.step1 with ledDelay := s.cfg.rowPeriod, timerArmed := true, timerRem := s.cfg.rowPeriod })

/-- 40_led.md R93, R95, R99: one bit-plane step rotates the mask left; where it becomes 0x01, and only there, the row
advances with its commit; column c is driven exactly where the active cell has the rotated mask's bit; nothing else
changes; the delay returned is the dwell of the plane landed on. -/
def Obligations.BitPlaneStep : Prop :=
  ∀ s : State, s.mode = .bitPlane →
    (s.mask.rotateLeft 1 ≠ 0x01 →
      s.step1 =
        { s with
          mask := s.mask.rotateLeft 1
          colAct := Vector.ofFn fun c => cell s.active s.row c &&& s.mask.rotateLeft 1 != 0 }) ∧
    (s.mask.rotateLeft 1 = 0x01 → s.mask = 0x80 ∧
      ∃ (r : Fin 3) (a : Vector Byte 27),
        r.val = (s.row.val + 1) % 3 ∧
        (r = 0 ∧ s.pendingUpdate = true → a = s.pending) ∧
        (¬(r = 0 ∧ s.pendingUpdate = true) → a = s.active) ∧
        s.step1 =
          { s with
            mask := 0x01
            row := r
            rowAct := (s.rowAct.set s.row.val false).set r.val true
            active := a
            pendingUpdate := s.pendingUpdate && r != 0
            colAct := Vector.ofFn fun c => cell a r c &&& 0x01 != 0 }) ∧
    ∀ k : Fin 8, s.mask.rotateLeft 1 = 1#8 <<< k.val →
      s.step1.mask = 1#8 <<< k.val ∧ s.step1.stepDelay = some (dwell s.cfg k (k == 0))

/-- The delay a bit-plane step returns is the dwell of the plane landed on, P_WRAP_DELAY overriding plane 0
(40_led.md R97, 00_scope.md R8); with the source's table these are its values. -/
def Obligations.BitPlaneDelay : Prop :=
  (∀ (s : State) (k : Fin 8), s.mode = .bitPlane → s.mask = 1#8 <<< k.val →
    s.stepDelay = some (if k = 0 then s.cfg.wrapDelay.getD s.cfg.dwell[0] else s.cfg.dwell[k])) ∧
  (∀ c : Config, c.dwell = #v[0, 0, 0, 163, 351, 726, 1476, 2976] → c.wrapDelay = none →
    (List.finRange 8).map (fun k => dwell c k (k == 0)) = [0, 0, 0, 163, 351, 726, 1476, 2976])

/-- Full scan in bit-plane mode (40_led.md R108): after a LED_SUBMIT the commit comes exactly
`(8 - ctz8(mask)) + 8·(2 - row)` steps later; before it the active buffer stands, and from then on it holds the image as
it stood at the SUBMIT, while a cell that no logical cell maps to stays dark. -/
def Obligations.BitPlaneFullScan : Prop :=
  ∀ (s t : State) (k : Fin 8), s.halted = false → s.mode = .bitPlane → s.mask = 1#8 <<< k.val →
    exec .ledSubmit s = .next t →
    ∃ n : Nat, n = (8 - k.val) + 8 * (2 - s.row.val) ∧ n ≤ 24 ∧
      (∀ m, m < n → (State.steps m t).active = s.active ∧ (State.steps m t).pendingUpdate = true) ∧
      (State.steps n t).row = 0 ∧
      ∀ m, n ≤ m →
        (State.steps m t).pendingUpdate = false ∧
        (∀ k : Fin 25, cell (State.steps m t).active s.cfg.map[k].1 s.cfg.map[k].2 = s.img[k]) ∧
        (s.UnmappedDark → ∀ (pr : Fin 3) (pc : Fin 9), (∀ k : Fin 25, s.cfg.map[k] ≠ (pr, pc)) →
          cell (State.steps m t).active pr pc = 0)

/-- Full scan in row-cycle mode (40_led.md R108): the commit comes exactly `3 - row` steps after a LED_SUBMIT. -/
def Obligations.RowCycleFullScan : Prop :=
  ∀ s t : State, s.halted = false → s.mode = .rowCycle → exec .ledSubmit s = .next t →
    ∃ n : Nat, n = 3 - s.row.val ∧ n ≤ 3 ∧
      (∀ m, m < n → (State.steps m t).active = s.active ∧ (State.steps m t).pendingUpdate = true) ∧
      (State.steps n t).row = 0 ∧
      ∀ m, n ≤ m →
        (State.steps m t).pendingUpdate = false ∧
        (∀ k : Fin 25, cell (State.steps m t).active s.cfg.map[k].1 s.cfg.map[k].2 = s.img[k]) ∧
        (s.UnmappedDark → ∀ (pr : Fin 3) (pc : Fin 9), (∀ k : Fin 25, s.cfg.map[k] ≠ (pr, pc)) →
          cell (State.steps m t).active pr pc = 0)

/-- No commit mid-cycle (40_led.md R109): a step changes the active buffer only where it lands on row 0 with an update
pending, and then the whole of it becomes the pending buffer (R98). -/
def Obligations.ActiveChangesOnlyAtRowZero : Prop :=
  ∀ s : State, s.step1.active ≠ s.active →
    s.row = 2 ∧ s.step1.row = 0 ∧ s.pendingUpdate = true ∧ s.step1.active = s.pending ∧
      s.step1.pendingUpdate = false ∧ (s.mode = .bitPlane → s.mask = 0x80)

/-- Which events may change the display's state, over all events (10_state.md R19, R20, R22, R23): the cursor and the
active buffer only an activation, the lines an activation or LED_CLEAR, the pending buffer only LED_SUBMIT, and the
reset event each of them. -/
def Obligations.WhatChangesTheDisplay : Prop :=
  ∀ (e : Event) (s t : State), perform e s = .next t →
    (t.row ≠ s.row ∨ t.mask ≠ s.mask ∨ t.active ≠ s.active → activates e ∨ resets e s) ∧
    (t.rowAct ≠ s.rowAct ∨ t.colAct ≠ s.colAct → activates e ∨ issues e .ledClear ∨ resets e s) ∧
    (t.pending ≠ s.pending → issues e .ledSubmit ∨ resets e s)

/-- 10_state.md R21: LED_SUBMIT sets the update flag and a commit clears it; nothing else does, but for the reset event
(R50). Where the active buffer changed, a commit or a reset happened. -/
def Obligations.PendingUpdateSetBySubmitClearedByCommit : Prop :=
  ∀ (e : Event) (s t : State), perform e s = .next t →
    (issues e .ledSubmit → s.halted = false → t.pendingUpdate = true) ∧
    (s.pendingUpdate = false → t.pendingUpdate = true → issues e .ledSubmit) ∧
    (s.pendingUpdate = true → t.pendingUpdate = false →
      activates e ∧ t.active = s.pending ∨ resets e s) ∧
    (t.active ≠ s.active → t.pendingUpdate = false)

/-- 40_led.md R102: a tick does nothing unless HALTED = 0, LED_EN = 1 and the timer is armed; it counts down above 1; at
the last count it disarms the timer and runs an activation. So the activation comes on the d-th enabled tick. -/
def Obligations.TickCountsDownToActivation : Prop :=
  ∀ s : State,
    (¬(s.halted = false ∧ s.ledEn = true ∧ s.timerArmed = true) → perform .tick s = .next s) ∧
    (s.halted = false → s.ledEn = true → s.timerArmed = true →
      (1 < s.timerRem.toNat → perform .tick s = .next { s with timerRem := s.timerRem - 1 }) ∧
      (s.timerRem.toNat ≤ 1 → perform .tick s = exec .ledStep { s with timerArmed := false }) ∧
      ∀ n : Nat, n < s.timerRem.toNat → ∃ u : Nat → State, u 0 = s ∧
        (∀ k : Nat, k < n → perform .tick (u k) = .next (u (k + 1))) ∧
        u n = { s with timerRem := s.timerRem - BitVec.ofNat 32 n })

/-- 40_led.md R103: a CTRL write with bit 0 = 1 while LED_EN = 0 arms the timer with 1, so that the next tick runs the
first activation; the cursor, the buffers and the lines are not touched. -/
def Obligations.LedEnRisingEdgeArmsTimer : Prop :=
  ∀ (s : State) (v : Word), s.halted = false → s.ledEn = false → v.getLsbD 0 = true →
    ∃ t : State,
      t = { s with
            ledEn := true
            mode := if v.getLsbD 1 then .rowCycle else .bitPlane
            intenEnd := v.getLsbD 2
            timerArmed := true
            timerRem := 1 } ∧
      perform (.host (.write .bits32 0x008 v)) s = .next t ∧
      perform .tick t = exec .ledStep { t with timerArmed := false }

/-- 40_led.md R104: a CTRL write with bit 0 = 0 while LED_EN = 1 disarms the timer; the lines keep their levels. -/
def Obligations.LedEnFallingEdgeDisarmsTimer : Prop :=
  ∀ (s : State) (v : Word), s.halted = false → s.ledEn = true → v.getLsbD 0 = false →
    perform (.host (.write .bits32 0x008 v)) s =
      .next { s with
              ledEn := false
              mode := if v.getLsbD 1 then .rowCycle else .bitPlane
              intenEnd := v.getLsbD 2
              timerArmed := false
              timerRem := 0 }

/-- A CTRL write that leaves LED_EN as it is changes MODE and INTEN_END and nothing else (10_state.md R40, 40_led.md
R105); after any CTRL write CTRL reads back bits 2:0, its reserved bits 0. In every state CTRL reads INTEN_END, MODE and LED_EN
with the reserved bits 0, INTEN_END as RADIO_START_RX sets it too. -/
def Obligations.CtrlWriteWithoutEdge : Prop :=
  (∀ (s : State) (v : Word), s.halted = false →
    (v.getLsbD 0 = s.ledEn →
      perform (.host (.write .bits32 0x008 v)) s =
        .next { s with mode := if v.getLsbD 1 then .rowCycle else .bitPlane, intenEnd := v.getLsbD 2 }) ∧
    ∃ t : State, perform (.host (.write .bits32 0x008 v)) s = .next t ∧ readOffset t 0x008 = v &&& 0x7) ∧
  (∀ s : State,
    (readOffset s 0x008).getLsbD 0 = s.ledEn ∧ ((readOffset s 0x008).getLsbD 1 = true ↔ s.mode = .rowCycle) ∧
    (readOffset s 0x008).getLsbD 2 = s.intenEnd ∧ (readOffset s 0x008).extractLsb' 3 29 = 0) ∧
  ∀ c : Config, readOffset (State.resetWith c) 0x008 = 0

/-- With the source's dwell table and no wrap override no activation in bit-plane mode ends on plane 0, 1 or 2, so a
cell with bits 3 to 7 all 0 drives no column after it (70_reset_and_hazards.md R176). -/
def Obligations.ZeroDwellPlanesNeverStay : Prop :=
  ∀ s t : State, s.mode = .bitPlane → s.cfg.dwell = #v[0, 0, 0, 163, 351, 726, 1476, 2976] → s.cfg.wrapDelay = none →
    s.halted = false → exec .ledStep s = .next t →
    t.mask ∉ [0x01#8, 0x02#8, 0x04#8] ∧
    ∀ c : Fin 9, cell t.active t.row c &&& 0xF8 = 0 → t.colAct[c] = false

/-- First pass after reset (70_reset_and_hazards.md R177): in bit-plane mode no row line is active through the first 7
steps, and step 8 activates row 1; in row-cycle mode the first step does. -/
def Obligations.FirstPassAfterReset : Prop :=
  ∀ c : Config,
    (∀ m, m ≤ 7 → (State.steps m (State.resetWith c)).rowAct = Vector.replicate 3 false) ∧
    (State.steps 8 (State.resetWith c)).rowAct = #v[false, true, false] ∧
    State.rowAct (State.step1 { State.resetWith c with mode := .rowCycle }) = #v[false, true, false]

/-! ## The radio family -/

/-- 41_radio.md R111: RADIO_CONFIGURE while the receiver is not armed sets the group and the configured flag and leaves
everything else, a completed frame included; while armed it halts the block with code 15 and sets nothing else. That the
halt is a next state is the model's choice (log 4). -/
def Obligations.ConfigureSetsGroupOrHalts : Prop :=
  (∀ group : Byte, decode (0x10000000 ||| group.setWidth 32) = .ok (.radioConfigure group)) ∧
  ∀ (s : State) (group : Byte),
    (s.halted = true → exec (.radioConfigure group) s = .next s) ∧
    (s.halted = false → s.radioRx = false →
      exec (.radioConfigure group) s = .next { s with radioGroup := group, radioConfigured := true }) ∧
    (s.halted = false → s.radioRx = true →
      exec (.radioConfigure group) s = .next { s with err := 15, halted := true })

/-- 41_radio.md R113: RADIO_START_RX arms the receiver and enables the interrupt; before any RADIO_CONFIGURE it records
error 3, over an unreceived frame error 5, and nothing else changes then. -/
def Obligations.StartRxArmsReceiver : Prop :=
  decode 0x11000000 = .ok .radioStartRx ∧
  ∀ s : State,
    (s.halted = true → exec .radioStartRx s = .next s) ∧
    (s.halted = false → s.radioConfigured = false → exec .radioStartRx s = .next { s with err := 3 }) ∧
    (s.halted = false → s.radioConfigured = true → s.radioEnd = true →
      exec .radioStartRx s = .next { s with err := 5 }) ∧
    (s.halted = false → s.radioConfigured = true → s.radioEnd = false →
      exec .radioStartRx s = .next { s with radioRx := true, intenEnd := true })

/-- 41_radio.md R117, R118: RADIO_RECEIVE of a completed frame that passed its CRC copies the first
`min(rxbuf[0] + P_RX_COPY_ADJ, P_RX_CAP)` bytes, leaves the others, returns that length and clears END; of one that
failed it returns 0; without a frame it returns 0 and records error 4. Nothing else changes. -/
def Obligations.ReceiveTakesFrame : Prop :=
  decode 0x12000000 = .ok .radioReceive ∧
  ∀ s : State,
    (s.halted = true → exec .radioReceive s = .next s) ∧
    (s.halted = false → s.radioEnd = false → exec .radioReceive s = .next { s with rxLen := 0, err := 4 }) ∧
    (s.halted = false → s.radioEnd = true → s.radioCrcok = false →
      exec .radioReceive s = .next { s with radioEnd := false, rxLen := 0 }) ∧
    (s.halted = false → s.radioEnd = true → s.radioCrcok = true →
      ∃ (n : Nat) (data : Vector Byte 64),
        n = min (s.rxbuf[0].toNat + s.cfg.rxCopyAdj) s.cfg.rxCap ∧ n ≤ 64 ∧
        (∀ i : Fin 64, i.val < n → data[i] = s.rxbuf[i]) ∧ (∀ i : Fin 64, n ≤ i.val → data[i] = s.rxdata[i]) ∧
        exec .radioReceive s =
          .next { s with radioEnd := false, rxdata := data, rxLen := BitVec.ofNat 32 n })

/-- 41_radio.md R114, R116: while armed and not HALTED, a frame with the base address and the group writes its first
`min(m, P_RX_CAP)` bytes, leaves the others, records its CRC result, completes and disarms the receiver, in one step that
changes nothing else; a frame with another base or prefix changes nothing (R115), and so does one while the receiver is not
armed or the block is HALTED (derived in R121). The bytes of the buffer at P_RX_CAP and above are the model's own (log 9). -/
def Obligations.FrameDelivery : Prop :=
  ∀ (s : State) (f : Frame),
    (s.halted = false → s.radioRx = true → f.base = s.cfg.baseAddr → f.addrPrefix = s.radioGroup →
      ∃ buf : Vector Byte 64,
        (∀ i : Fin 64, ∀ h : i.val < f.bytes.length, i.val < s.cfg.rxCap → buf[i] = f.bytes[i.val]) ∧
        (∀ i : Fin 64, f.bytes.length ≤ i.val ∨ s.cfg.rxCap ≤ i.val → buf[i] = s.rxbuf[i]) ∧
        perform (.frame f) s =
          .next { s with rxbuf := buf, radioCrcok := f.crcOk, radioEnd := true, radioRx := false }) ∧
    (s.halted = false → s.radioRx = true → f.base ≠ s.cfg.baseAddr ∨ f.addrPrefix ≠ s.radioGroup →
      perform (.frame f) s = .next s) ∧
    (s.halted = true ∨ s.radioRx = false → perform (.frame f) s = .next s)

/-- 41_radio.md R120: after a delivery the receiver is disabled and takes no further frame; only RADIO_START_RX arms it;
RADIO_START_RX is refused until RADIO_RECEIVE (or the reset event) has cleared END. -/
def Obligations.NoAutomaticRearm : Prop :=
  (∀ (s t : State) (f : Frame), perform (.frame f) s = .next t → t ≠ s → t.radioRx = false) ∧
  (∀ (s : State) (f : Frame), s.radioRx = false → perform (.frame f) s = .next s) ∧
  (∀ (e : Event) (s t : State), perform e s = .next t → s.radioRx = false → t.radioRx = true →
    issues e .radioStartRx) ∧
  (∀ s t : State, s.radioEnd = true → s.radioRx = false → exec .radioStartRx s = .next t → t.radioRx = false) ∧
  (∀ (e : Event) (s t : State), perform e s = .next t → s.radioEnd = true → t.radioEnd = false →
    issues e .radioReceive ∨ resets e s)

/-- 41_radio.md R119: a frame whose CRC failed is delivered like any other, and RADIO_RECEIVE then returns 0, copies
nothing and records no error. -/
def Obligations.CorruptFrameIsDropped : Prop :=
  ∀ (s : State) (f : Frame), s.halted = false → s.radioRx = true → f.base = s.cfg.baseAddr →
    f.addrPrefix = s.radioGroup → f.crcOk = false →
    ∃ t u : State, perform (.frame f) s = .next t ∧ t.radioEnd = true ∧ t.radioRx = false ∧
      exec .radioReceive t = .next u ∧ u.rxLen = 0 ∧ u.rxdata = s.rxdata ∧ u.err = s.err ∧ u.radioEnd = false

/-- A good frame delivered and received reaches RXDATA (41_radio.md R114, R117, R118): its own bytes up to the copy
length, and stale bytes of the receive buffer where the declared length exceeds the frame (70_reset_and_hazards.md
R179). -/
def Obligations.DeliveredFrameReachesHost : Prop :=
  ∀ (s : State) (f : Frame), s.halted = false → s.radioRx = true → f.base = s.cfg.baseAddr →
    f.addrPrefix = s.radioGroup → f.crcOk = true →
    ∃ t u : State, perform (.frame f) s = .next t ∧ t.radioEnd = true ∧ t.radioCrcok = true ∧
      exec .radioReceive t = .next u ∧
      u.rxLen.toNat = min (f.declared.toNat + s.cfg.rxCopyAdj) s.cfg.rxCap ∧
      u.radioEnd = false ∧ u.radioRx = false ∧
      (∀ i : Fin 64, i.val < u.rxLen.toNat → ∀ h : i.val < f.bytes.length, u.rxdata[i] = f.bytes[i.val]) ∧
      (∀ i : Fin 64, i.val < u.rxLen.toNat → f.bytes.length ≤ i.val → u.rxdata[i] = s.rxbuf[i]) ∧
      (∀ i : Fin 64, u.rxLen.toNat ≤ i.val → u.rxdata[i] = s.rxdata[i])

/-- 10_state.md R28: only RADIO_CONFIGURE writes the group (with the reset event, R50). -/
def Obligations.OnlyConfigureWritesGroup : Prop :=
  ∀ (e : Event) (s t : State), perform e s = .next t → t.radioGroup ≠ s.radioGroup →
    (∃ group, issues e (.radioConfigure group) ∧ t.radioGroup = group) ∨ resets e s

/-- Which events may change the receive storage, over all events (10_state.md R30 to R33): the receive buffer and the CRC
result only a frame delivery, RXDATA and RX_LEN only RADIO_RECEIVE, and the reset event each of them. -/
def Obligations.WhatChangesReceiveStorage : Prop :=
  ∀ (e : Event) (s t : State), perform e s = .next t →
    (t.rxbuf ≠ s.rxbuf ∨ t.radioCrcok ≠ s.radioCrcok →
      (∃ f, e = .frame f ∧ f.base = s.cfg.baseAddr ∧ f.addrPrefix = s.radioGroup) ∨ resets e s) ∧
    (t.rxdata ≠ s.rxdata ∨ t.rxLen ≠ s.rxLen → issues e .radioReceive ∨ resets e s)

/-- A listening receiver stays listening through ticks and frames, and a handler that receives and re-arms keeps it so
(41_radio.md R123, R124). -/
def Obligations.ListeningIsKept : Prop :=
  (∀ s t : State, s.Listening → perform .tick s = .next t → t.Listening) ∧
  (∀ (s t : State) (f : Frame), s.Listening → s.intenEnd = true → perform (.frame f) s = .next t → t.Listening) ∧
  (∀ s : State, s.Listening → s.radioEnd = true →
    ∃ t u : State, exec .radioReceive s = .next t ∧ exec .radioStartRx t = .next u ∧ u.Listening ∧
      u.radioRx = true ∧ u.intenEnd = true)

/-! ## Errors, the halt and the control family -/

/-- 42_control.md R130: ERR_CLEAR clears the error record and changes nothing else; while HALTED it is ignored. -/
def Obligations.ErrClearClearsError : Prop :=
  decode 0x20000000 = .ok .errClear ∧
  ∀ s : State,
    (s.halted = true → exec .errClear s = .next s) ∧
    (s.halted = false → exec .errClear s = .next { s with err := 0 })

/-- A command changes `err` only where it raises an error or is ERR_CLEAR; one that completes without error leaves it
(10_state.md R17, 60_exceptions.md R141, R143). -/
def Obligations.OnlyErrorsChangeErr : Prop :=
  ∀ (i : Instr) (s t : State), exec i s = .next t → t.err ≠ s.err →
    s.halted = false ∧
    (i = .errClear ∧ t.err = 0 ∨
      (∃ group, i = .radioConfigure group) ∧ s.radioRx = true ∧ t.err = 15 ∨
      i = .radioStartRx ∧ s.radioConfigured = false ∧ t.err = 3 ∨
      i = .radioStartRx ∧ s.radioConfigured = true ∧ s.radioEnd = true ∧ t.err = 5 ∨
      i = .radioReceive ∧ s.radioEnd = false ∧ t.err = 4)

/-- 60_exceptions.md R145: the block halts only by a RADIO_CONFIGURE while armed, with code 15; while HALTED nothing but
a reset event changes any field of the block, and every access still answers as the frozen state has it. -/
def Obligations.HaltFreezesTheBlock : Prop :=
  (∀ (e : Event) (s t : State), perform e s = .next t → s.halted = false → t.halted = true →
    s.radioRx = true ∧ (∃ group, issues e (.radioConfigure group)) ∧ t = { s with err := 15, halted := true }) ∧
  (∀ (e : Event) (s t : State), perform e s = .next t → s.halted = true → ¬resets e s →
    t = { s with
          hostData := t.hostData, hostHandlers := t.hostHandlers, hostRequests := t.hostRequests
          hostCritical := t.hostCritical }) ∧
  (∀ (s : State) (off : Offset), s.halted = true → off.toNat % 4 = 0 →
    perform (.host (.read .bits32 off)) s = .next { s with hostData := readOffset s off })

/-! ## Register accesses -/

/-- An access is a bus error exactly where it is not 32 bits wide at a multiple of 4 (20_memory.md R53). That this holds while
HALTED too, where R60 has every write ignored with no error, is the model's choice (log 16). -/
def Obligations.BusErrorExactlyWhereNotAdmitted : Prop :=
  ∀ (s : State) (size : AccessSize) (off : Offset) (v : Word),
    (perform (.host (.read size off)) s = .fault .busError ↔ ¬(size = .bits32 ∧ off.toNat % 4 = 0)) ∧
    (perform (.host (.write size off v)) s = .fault .busError ↔ ¬(size = .bits32 ∧ off.toNat % 4 = 0))

/-- 20_memory.md R56: a write to a read-only register is ignored, and CMD reads 0 (the word read lands in the model's
`hostData`, log 6). -/
def Obligations.ReadOnlyRegistersIgnoreWrites : Prop :=
  (∀ (s : State) (v : Word) (r : Reg),
    (r = .status ∨ r = .ledDelay ∨ r = .timerRem ∨ r = .lines ∨ r = .radioGroup ∨ r = .rxLen ∨
      (∃ j, r = .rxdata j) ∨ (∃ j, r = .active j) ∨ (∃ j, r = .pending j)) →
    perform (.host (.write .bits32 r.offset v)) s = .next s) ∧
  ∀ s : State, perform (.host (.read .bits32 0x000)) s = .next { s with hostData := 0 }

/-- A reserved offset reads 0 and ignores writes (20_memory.md R55). -/
def Obligations.ReservedOffsetsReadZero : Prop :=
  ∀ (s : State) (v : Word) (off : Offset), off.toNat % 4 = 0 → (∀ r : Reg, off ≠ r.offset) →
    perform (.host (.read .bits32 off)) s = .next { s with hostData := 0 } ∧
    perform (.host (.write .bits32 off v)) s = .next s

/-- 20_memory.md R58: a read hands the host its word (the model's `hostData`, log 6) and changes no state of the block,
so reading any offset again gives what it gave before, STATUS with its END and ERR included. -/
def Obligations.ReadsHaveNoSideEffect : Prop :=
  ∀ (s : State) (off : Offset), off.toNat % 4 = 0 →
    ∃ t : State, perform (.host (.read .bits32 off)) s = .next t ∧
      t = { s with hostData := readOffset s off } ∧ ∀ off' : Offset, readOffset t off' = readOffset s off'

/-- 20_memory.md R60: while HALTED every write to the window is ignored, and every read returns the register's
value (in the model's `hostData`, log 6). -/
def Obligations.HaltedWindowIgnoresWrites : Prop :=
  ∀ (s : State) (off : Offset) (v : Word), s.halted = true → off.toNat % 4 = 0 →
    perform (.host (.write .bits32 off v)) s = .next s ∧
    perform (.host (.read .bits32 off)) s = .next { s with hostData := readOffset s off }

/-- 10_state.md R46: reads and writes of IMG0 to IMG6, byte by byte; bits 31:8 of IMG6 read 0 and are ignored. -/
def Obligations.ImgWriteReadsBack : Prop :=
  (∀ (s : State) (j : Fin 7) (i : Fin 4),
    (readOffset s (Reg.img j).offset).extractLsb' (8 * i.val) 8 = (s.img[4 * j.val + i.val]?).getD 0) ∧
  (∀ (s : State) (j : Fin 7) (v : Word), s.halted = false →
    ∃ img : Vector Byte 25,
      perform (.host (.write .bits32 (Reg.img j).offset v)) s = .next { s with img := img } ∧
      (∀ k : Fin 25, img[k] = if k.val / 4 = j.val then v.extractLsb' (8 * (k.val % 4)) 8 else s.img[k]) ∧
      readOffset { s with img := img } (Reg.img j).offset = if j = 6 then v &&& 0xFF else v) ∧
  ∀ (c : Config) (k : Fin 25), (State.resetWith c).img[k] = 0

/-- The byte arrays are packed little-endian: byte i of word j is byte 4·j + i of the array, 0 past its end
(10_state.md R47, R48; 20_memory.md R57). -/
def Obligations.ByteArraysPackLittleEndian : Prop :=
  ∀ (s : State) (i : Fin 4),
    (∀ j : Fin 16, (readOffset s (Reg.rxdata j).offset).extractLsb' (8 * i.val) 8 =
      (s.rxdata[4 * j.val + i.val]?).getD 0) ∧
    (∀ j : Fin 7, (readOffset s (Reg.active j).offset).extractLsb' (8 * i.val) 8 =
      (s.active[4 * j.val + i.val]?).getD 0) ∧
    (∀ j : Fin 7, (readOffset s (Reg.pending j).offset).extractLsb' (8 * i.val) 8 =
      (s.pending[4 * j.val + i.val]?).getD 0)

/-- 10_state.md R39: the fields of STATUS, its reserved bits, its reset value; writes to it are ignored. -/
def Obligations.StatusFields : Prop :=
  (∀ s : State,
    (readOffset s 0x004).getLsbD 0 = s.halted ∧ (readOffset s 0x004).getLsbD 1 = s.pendingUpdate ∧
    (readOffset s 0x004).getLsbD 2 = s.radioConfigured ∧ (readOffset s 0x004).getLsbD 3 = s.radioRx ∧
    (readOffset s 0x004).getLsbD 4 = s.radioEnd ∧ (readOffset s 0x004).getLsbD 5 = s.radioCrcok ∧
    (readOffset s 0x004).getLsbD 6 = s.timerArmed ∧
    (readOffset s 0x004).getLsbD 7 = (s.radioEnd && s.intenEnd) ∧
    (readOffset s 0x004).extractLsb' 8 4 = s.err ∧ (readOffset s 0x004).extractLsb' 12 4 = 0 ∧
    ((readOffset s 0x004).extractLsb' 16 2).toNat = s.row.val ∧ (readOffset s 0x004).extractLsb' 18 6 = 0 ∧
    (readOffset s 0x004).extractLsb' 24 8 = s.mask ∧
    ∀ v : Word, perform (.host (.write .bits32 0x004 v)) s = .next s) ∧
  ∀ c : Config, readOffset (State.resetWith c) 0x004 = 0x01000000

/-- 10_state.md R41 to R45: LED_DELAY, TIMER_REM, RADIO_GROUP and RX_LEN read their fields, LINES its bits with the reserved
ones 0; each reads 0 at reset. RX_LEN is at most P_RX_CAP in every state with the invariants. -/
def Obligations.LinesAndPlainRegisters : Prop :=
  (∀ s : State,
    (∀ r : Fin 3, (readOffset s 0x014).getLsbD r.val = s.rowAct[r]) ∧
    (∀ c : Fin 9, (readOffset s 0x014).getLsbD (8 + c.val) = s.colAct[c]) ∧
    (readOffset s 0x014).extractLsb' 3 5 = 0 ∧ (readOffset s 0x014).extractLsb' 17 15 = 0 ∧
    readOffset s 0x00C = s.ledDelay ∧ readOffset s 0x010 = s.timerRem ∧
    readOffset s 0x018 = s.radioGroup.setWidth 32 ∧ readOffset s 0x01C = s.rxLen ∧
    (s.ReceiveSound → (readOffset s 0x01C).toNat ≤ s.cfg.rxCap)) ∧
  ∀ c : Config, readOffset (State.resetWith c) 0x014 = 0 ∧ readOffset (State.resetWith c) 0x00C = 0 ∧
    readOffset (State.resetWith c) 0x010 = 0 ∧ readOffset (State.resetWith c) 0x018 = 0 ∧
    readOffset (State.resetWith c) 0x01C = 0

/-! ## Reset, configurations, the host's contexts -/

/-- 70_reset_and_hazards.md R165, R166: every reset event, power-on and those of the platform's set, sets every field of the
block to its reset value, whatever the state before, HALTED included; no activation is pending and the line is
deasserted. That the host's fields stand, and that an event outside the set changes nothing, are the model's choice
(log 5). -/
def Obligations.ResetSetsEveryField : Prop :=
  (∀ c : Config, resetsBlock c .powerOn = true ∧
    ∀ id : Nat, resetsBlock c (.platform id) = true ↔ id ∈ c.resetSources) ∧
  (∀ (s : State) (src : ResetSource), resetsBlock s.cfg src = false → perform (.reset src) s = .next s) ∧
  ∀ (s : State) (src : ResetSource), resetsBlock s.cfg src = true → ∃ t : State, perform (.reset src) s = .next t ∧
    t.hostHandlers = s.hostHandlers ∧ t.hostRequests = s.hostRequests ∧ t.hostCritical = s.hostCritical ∧
    t.halted = false ∧ t.err = 0 ∧ t.ledEn = false ∧ t.mode = .bitPlane ∧ t.intenEnd = false ∧
    (∀ k : Fin 25, t.img[k] = 0) ∧ (∀ q : Fin 27, t.pending[q] = 0 ∧ t.active[q] = 0) ∧
    t.pendingUpdate = false ∧ t.row = 0 ∧ t.mask = 0x01 ∧ (∀ r : Fin 3, t.rowAct[r] = false) ∧
    (∀ c : Fin 9, t.colAct[c] = false) ∧ t.ledDelay = 0 ∧ t.timerArmed = false ∧ t.timerRem = 0 ∧
    t.radioConfigured = false ∧ t.radioRx = false ∧ t.radioGroup = 0 ∧ t.radioEnd = false ∧ t.radioCrcok = false ∧
    (∀ i : Fin 64, t.rxbuf[i] = 0 ∧ t.rxdata[i] = 0) ∧ t.rxLen = 0 ∧ t.irqRadioEnd = false

/-- At reset STATUS reads 0x01000000 and every other offset of the window reads 0 (10_state.md R50, 95_test_vectors.md
Z1). -/
def Obligations.ResetWindowReads : Prop :=
  ∀ (c : Config) (off : Offset), off.toNat % 4 = 0 →
    readOffset (State.resetWith c) off = if off = 0x004 then 0x01000000 else 0

/-- A configuration is refused before any step exactly where it breaks a rule: P_MAP injective, some effective dwell
nonzero, P_ROW_PERIOD at least 1, P_RX_CAP 32 or 64, P_RX_COPY_ADJ 0 or 1 (00_scope.md R7, R8, R9), P_BLOCK_BASE a
multiple of 512 (20_memory.md R51 says that it must be; that such a configuration is refused like the others is deduced,
log 12). -/
def Obligations.IllegalConfigurationsAreRefused : Prop :=
  ∀ p : Params,
    (∃ c : Config, p.check = .ok c ∧ c.toParams = p) ↔
      (∀ k k' : Fin 25, p.map[k] = p.map[k'] → k = k') ∧
      (p.wrapDelay.getD p.dwell[0] ≠ 0 ∨ ∃ k : Fin 8, k ≠ 0 ∧ p.dwell[k] ≠ 0) ∧
      p.rowPeriod ≠ 0 ∧ (p.rxCap = 32 ∨ p.rxCap = 64) ∧ (p.rxCopyAdj = 0 ∨ p.rxCopyAdj = 1) ∧
      p.blockBase % 512 = 0

/-- The host model (60_exceptions.md R150, R152; the model's choice where the spec is silent, log 7): taking an interrupt
changes nothing of the block, happens only outside a critical section and, for the radio's source, only while the line is
asserted; the main program takes a lone request, which is then served, but for the radio's line. -/
def Obligations.TakingAnInterruptChangesNoBlockState : Prop :=
  ∀ (s : State) (src : IrqSource),
    (∃ t : State, perform (.host (.takeIrq src)) s = .next t ∧
      t = { s with hostHandlers := t.hostHandlers, hostRequests := t.hostRequests }) ∧
    (s.hostCritical = true → perform (.host (.takeIrq src)) s = .next s) ∧
    (src = .radioFrameComplete → s.irqRadioEnd = false → perform (.host (.takeIrq src)) s = .next s) ∧
    (s.hostHandlers = [] → s.hostCritical = false → s.requests = [src] →
      perform (.host (.takeIrq src)) s =
        .next { s with
                hostHandlers := [src]
                hostRequests := if src = .radioFrameComplete then [.radioFrameComplete] else [] })

/-- Handlers start by priority and then by occurrence (60_exceptions.md R154; the model's host, log 7). A handler that starts
is that of a waiting request, was not running, outranks the handler it interrupts, and no other request that waits for a
handler not running has a higher priority, or an equal one and an earlier occurrence. Where some request waits that the
running context gives way to, a handler can start. A device's request waits behind those before it; the radio waits
exactly while its line is asserted. -/
def Obligations.HandlersStartByPriorityAndOccurrence : Prop :=
  (∀ (s t : State) (src : IrqSource), perform (.host (.takeIrq src)) s = .next t → t.hostHandlers ≠ s.hostHandlers →
    s.hostCritical = false ∧ src ∉ s.hostHandlers ∧ t.hostHandlers = src :: s.hostHandlers ∧
    (∀ top ∈ s.hostHandlers.head?, irqPriority s.cfg top < irqPriority s.cfg src) ∧
    ∃ before after, s.requests = before ++ src :: after ∧
      (∀ r ∈ before, r ∉ s.hostHandlers → irqPriority s.cfg r < irqPriority s.cfg src) ∧
      ∀ r ∈ after, r ∉ s.hostHandlers → irqPriority s.cfg r ≤ irqPriority s.cfg src) ∧
  (∀ s : State, s.hostCritical = false →
    (∃ r ∈ s.requests, r ∉ s.hostHandlers ∧ ∀ top ∈ s.hostHandlers.head?, irqPriority s.cfg top < irqPriority s.cfg r) →
    ∃ (src : IrqSource) (t : State), perform (.host (.takeIrq src)) s = .next t ∧
      t.hostHandlers = src :: s.hostHandlers) ∧
  (∀ (s : State) (src : IrqSource), src ≠ .radioFrameComplete →
    (src ∈ s.requests → perform (.request src) s = .next s) ∧
    (src ∉ s.requests → perform (.request src) s = .next { s with hostRequests := s.requests ++ [src] })) ∧
  ∀ s : State,
    (.radioFrameComplete ∈ s.requests ↔ s.irqRadioEnd = true) ∧
    s.requests.filter (· != .radioFrameComplete) = s.hostRequests.filter (· != .radioFrameComplete) ∧
    (.radioFrameComplete ∉ s.hostRequests → s.irqRadioEnd = true → s.requests = s.hostRequests ++ [.radioFrameComplete])
end

