-- ==== Sys2Proof/Laws/Decode.lean ====
section
/-! SUPPORT. The fields of a command word built from its fields, and the rows of spec/opcode_table.json as masks and
patterns. -/

namespace Sys2Proof

/-- Bit k of a word built from its two fields. -/
theorem getLsbD_fields (op : Byte) (arg : BitVec 24) (k : Nat) :
    BitVec.getLsbD (w := 32) (op ++ arg) k = if k < 24 then arg.getLsbD k else op.getLsbD (k - 24) :=
  BitVec.getLsbD_append

@[simp] theorem opField_append (op : Byte) (arg : BitVec 24) : opField (op ++ arg) = op := by
  apply BitVec.eq_of_getLsbD_eq
  intro k hk
  rw [opField, BitVec.getLsbD_extractLsb', getLsbD_fields, if_neg (by omega), Nat.add_sub_cancel_left]
  simp [hk]

@[simp] theorem argField_append (op : Byte) (arg : BitVec 24) : argField (op ++ arg) = arg := by
  apply BitVec.eq_of_getLsbD_eq
  intro k hk
  rw [argField, BitVec.getLsbD_extractLsb', getLsbD_fields, if_pos (by omega)]
  simp [hk]

/-- A word is its OP field and its ARG field. -/
theorem opField_append_argField (w : Word) : opField w ++ argField w = w := by
  apply BitVec.eq_of_getLsbD_eq
  intro k hk
  refine (getLsbD_fields _ _ k).trans ?_
  by_cases h : k < 24
  · rw [if_pos h, argField, BitVec.getLsbD_extractLsb']
    simp [h]
  · rw [if_neg h, opField, BitVec.getLsbD_extractLsb', show 24 + (k - 24) = k by omega]
    simp [show k - 24 < 8 by omega]

/-- The mask of a command's row (30_encoding.md R73). -/
def tableMask : Instr → Word
  | .ledSubmit => 0xFFFFFFFF
  | .ledClear => 0xFFFFFFFF
  | .ledStep => 0xFFFFFFFF
  | .radioConfigure _ => 0xFFFFFF00
  | .radioStartRx => 0xFFFFFFFF
  | .radioReceive => 0xFFFFFFFF
  | .errClear => 0xFFFFFFFF

/-- The pattern of a command's row (30_encoding.md R73). -/
def tableMatch : Instr → Word
  | .ledSubmit => 0x01000000
  | .ledClear => 0x02000000
  | .ledStep => 0x03000000
  | .radioConfigure _ => 0x10000000
  | .radioStartRx => 0x11000000
  | .radioReceive => 0x12000000
  | .errClear => 0x20000000

end Sys2Proof
end

