-- ==== Sys2Proof/Laws/State.lean ====
section
/-! SUPPORT. What each plain update of the state does to every field: one theorem per update, true by rfl, a simp lemma
for each field. -/

namespace Sys2Proof.Machine

@[simp] theorem State.raiseErr_fields (s : State) (e : ErrCode) :
    (s.raiseErr e).halted = s.halted ∧ (s.raiseErr e).err = e.code ∧ (s.raiseErr e).ledEn = s.ledEn ∧
    (s.raiseErr e).mode = s.mode ∧ (s.raiseErr e).intenEnd = s.intenEnd ∧ (s.raiseErr e).img = s.img ∧
    (s.raiseErr e).pending = s.pending ∧ (s.raiseErr e).active = s.active ∧
    (s.raiseErr e).pendingUpdate = s.pendingUpdate ∧ (s.raiseErr e).row = s.row ∧ (s.raiseErr e).mask = s.mask ∧
    (s.raiseErr e).rowAct = s.rowAct ∧ (s.raiseErr e).colAct = s.colAct ∧ (s.raiseErr e).ledDelay = s.ledDelay ∧
    (s.raiseErr e).timerArmed = s.timerArmed ∧ (s.raiseErr e).timerRem = s.timerRem ∧
    (s.raiseErr e).radioConfigured = s.radioConfigured ∧ (s.raiseErr e).radioRx = s.radioRx ∧
    (s.raiseErr e).radioGroup = s.radioGroup ∧ (s.raiseErr e).radioEnd = s.radioEnd ∧
    (s.raiseErr e).radioCrcok = s.radioCrcok ∧ (s.raiseErr e).rxbuf = s.rxbuf ∧ (s.raiseErr e).rxdata = s.rxdata ∧
    (s.raiseErr e).rxLen = s.rxLen ∧ (s.raiseErr e).hostHandlers = s.hostHandlers ∧
    (s.raiseErr e).hostRequests = s.hostRequests ∧ (s.raiseErr e).hostCritical = s.hostCritical ∧
    (s.raiseErr e).cfg = s.cfg ∧ (s.raiseErr e).hostData = s.hostData ∧ (s.raiseErr e).agenda = s.agenda ∧
    (s.raiseErr e).choices = s.choices :=
  ⟨rfl, rfl, rfl, rfl, rfl, rfl, rfl, rfl, rfl, rfl, rfl, rfl, rfl, rfl, rfl, rfl,
    rfl, rfl, rfl, rfl, rfl, rfl, rfl, rfl, rfl, rfl, rfl, rfl, rfl, rfl, rfl⟩

@[simp] theorem State.raiseHalt_fields (s : State) (e : ErrCode) :
    (s.raiseHalt e).halted = true ∧ (s.raiseHalt e).err = e.code ∧ (s.raiseHalt e).ledEn = s.ledEn ∧
    (s.raiseHalt e).mode = s.mode ∧ (s.raiseHalt e).intenEnd = s.intenEnd ∧ (s.raiseHalt e).img = s.img ∧
    (s.raiseHalt e).pending = s.pending ∧ (s.raiseHalt e).active = s.active ∧
    (s.raiseHalt e).pendingUpdate = s.pendingUpdate ∧ (s.raiseHalt e).row = s.row ∧ (s.raiseHalt e).mask = s.mask ∧
    (s.raiseHalt e).rowAct = s.rowAct ∧ (s.raiseHalt e).colAct = s.colAct ∧ (s.raiseHalt e).ledDelay = s.ledDelay ∧
    (s.raiseHalt e).timerArmed = s.timerArmed ∧ (s.raiseHalt e).timerRem = s.timerRem ∧
    (s.raiseHalt e).radioConfigured = s.radioConfigured ∧ (s.raiseHalt e).radioRx = s.radioRx ∧
    (s.raiseHalt e).radioGroup = s.radioGroup ∧ (s.raiseHalt e).radioEnd = s.radioEnd ∧
    (s.raiseHalt e).radioCrcok = s.radioCrcok ∧ (s.raiseHalt e).rxbuf = s.rxbuf ∧ (s.raiseHalt e).rxdata = s.rxdata ∧
    (s.raiseHalt e).rxLen = s.rxLen ∧ (s.raiseHalt e).hostHandlers = s.hostHandlers ∧
    (s.raiseHalt e).hostRequests = s.hostRequests ∧ (s.raiseHalt e).hostCritical = s.hostCritical ∧
    (s.raiseHalt e).cfg = s.cfg ∧ (s.raiseHalt e).hostData = s.hostData ∧ (s.raiseHalt e).agenda = s.agenda ∧
    (s.raiseHalt e).choices = s.choices :=
  ⟨rfl, rfl, rfl, rfl, rfl, rfl, rfl, rfl, rfl, rfl, rfl, rfl, rfl, rfl, rfl, rfl,
    rfl, rfl, rfl, rfl, rfl, rfl, rfl, rfl, rfl, rfl, rfl, rfl, rfl, rfl, rfl⟩

@[simp] theorem State.submit_fields (s : State) :
    s.submit.halted = s.halted ∧ s.submit.err = s.err ∧ s.submit.ledEn = s.ledEn ∧ s.submit.mode = s.mode ∧
    s.submit.intenEnd = s.intenEnd ∧ s.submit.img = s.img ∧ s.submit.pending = mapImage s.cfg s.img s.pending ∧
    s.submit.active = s.active ∧ s.submit.pendingUpdate = true ∧ s.submit.row = s.row ∧ s.submit.mask = s.mask ∧
    s.submit.rowAct = s.rowAct ∧ s.submit.colAct = s.colAct ∧ s.submit.ledDelay = s.ledDelay ∧
    s.submit.timerArmed = s.timerArmed ∧ s.submit.timerRem = s.timerRem ∧
    s.submit.radioConfigured = s.radioConfigured ∧ s.submit.radioRx = s.radioRx ∧
    s.submit.radioGroup = s.radioGroup ∧ s.submit.radioEnd = s.radioEnd ∧ s.submit.radioCrcok = s.radioCrcok ∧
    s.submit.rxbuf = s.rxbuf ∧ s.submit.rxdata = s.rxdata ∧ s.submit.rxLen = s.rxLen ∧
    s.submit.hostHandlers = s.hostHandlers ∧ s.submit.hostRequests = s.hostRequests ∧
    s.submit.hostCritical = s.hostCritical ∧ s.submit.cfg = s.cfg ∧ s.submit.hostData = s.hostData ∧
    s.submit.agenda = s.agenda ∧ s.submit.choices = s.choices :=
  ⟨rfl, rfl, rfl, rfl, rfl, rfl, rfl, rfl, rfl, rfl, rfl, rfl, rfl, rfl, rfl, rfl,
    rfl, rfl, rfl, rfl, rfl, rfl, rfl, rfl, rfl, rfl, rfl, rfl, rfl, rfl, rfl⟩

@[simp] theorem State.clearLines_fields (s : State) :
    s.clearLines.halted = s.halted ∧ s.clearLines.err = s.err ∧ s.clearLines.ledEn = s.ledEn ∧
    s.clearLines.mode = s.mode ∧ s.clearLines.intenEnd = s.intenEnd ∧ s.clearLines.img = s.img ∧
    s.clearLines.pending = s.pending ∧ s.clearLines.active = s.active ∧
    s.clearLines.pendingUpdate = s.pendingUpdate ∧ s.clearLines.row = s.row ∧ s.clearLines.mask = s.mask ∧
    s.clearLines.rowAct = noRows ∧ s.clearLines.colAct = noColumns ∧ s.clearLines.ledDelay = s.ledDelay ∧
    s.clearLines.timerArmed = s.timerArmed ∧ s.clearLines.timerRem = s.timerRem ∧
    s.clearLines.radioConfigured = s.radioConfigured ∧ s.clearLines.radioRx = s.radioRx ∧
    s.clearLines.radioGroup = s.radioGroup ∧ s.clearLines.radioEnd = s.radioEnd ∧
    s.clearLines.radioCrcok = s.radioCrcok ∧ s.clearLines.rxbuf = s.rxbuf ∧ s.clearLines.rxdata = s.rxdata ∧
    s.clearLines.rxLen = s.rxLen ∧ s.clearLines.hostHandlers = s.hostHandlers ∧
    s.clearLines.hostRequests = s.hostRequests ∧ s.clearLines.hostCritical = s.hostCritical ∧
    s.clearLines.cfg = s.cfg ∧ s.clearLines.hostData = s.hostData ∧ s.clearLines.agenda = s.agenda ∧
    s.clearLines.choices = s.choices :=
  ⟨rfl, rfl, rfl, rfl, rfl, rfl, rfl, rfl, rfl, rfl, rfl, rfl, rfl, rfl, rfl, rfl,
    rfl, rfl, rfl, rfl, rfl, rfl, rfl, rfl, rfl, rfl, rfl, rfl, rfl, rfl, rfl⟩

@[simp] theorem State.commit_fields (s : State) :
    s.commit.halted = s.halted ∧ s.commit.err = s.err ∧ s.commit.ledEn = s.ledEn ∧ s.commit.mode = s.mode ∧
    s.commit.intenEnd = s.intenEnd ∧ s.commit.img = s.img ∧ s.commit.pending = s.pending ∧
    s.commit.active = s.pending ∧ s.commit.pendingUpdate = false ∧ s.commit.row = s.row ∧ s.commit.mask = s.mask ∧
    s.commit.rowAct = s.rowAct ∧ s.commit.colAct = s.colAct ∧ s.commit.ledDelay = s.ledDelay ∧
    s.commit.timerArmed = s.timerArmed ∧ s.commit.timerRem = s.timerRem ∧
    s.commit.radioConfigured = s.radioConfigured ∧ s.commit.radioRx = s.radioRx ∧
    s.commit.radioGroup = s.radioGroup ∧ s.commit.radioEnd = s.radioEnd ∧ s.commit.radioCrcok = s.radioCrcok ∧
    s.commit.rxbuf = s.rxbuf ∧ s.commit.rxdata = s.rxdata ∧ s.commit.rxLen = s.rxLen ∧
    s.commit.hostHandlers = s.hostHandlers ∧ s.commit.hostRequests = s.hostRequests ∧
    s.commit.hostCritical = s.hostCritical ∧ s.commit.cfg = s.cfg ∧ s.commit.hostData = s.hostData ∧
    s.commit.agenda = s.agenda ∧ s.commit.choices = s.choices :=
  ⟨rfl, rfl, rfl, rfl, rfl, rfl, rfl, rfl, rfl, rfl, rfl, rfl, rfl, rfl, rfl, rfl,
    rfl, rfl, rfl, rfl, rfl, rfl, rfl, rfl, rfl, rfl, rfl, rfl, rfl, rfl, rfl⟩

@[simp] theorem State.nextRow_fields (s : State) :
    s.nextRow.halted = s.halted ∧ s.nextRow.err = s.err ∧ s.nextRow.ledEn = s.ledEn ∧ s.nextRow.mode = s.mode ∧
    s.nextRow.intenEnd = s.intenEnd ∧ s.nextRow.img = s.img ∧ s.nextRow.pending = s.pending ∧
    s.nextRow.active = s.active ∧ s.nextRow.pendingUpdate = s.pendingUpdate ∧ s.nextRow.row = s.row + 1 ∧
    s.nextRow.mask = s.mask ∧ s.nextRow.rowAct = s.rowAct.set s.row.val false ∧ s.nextRow.colAct = noColumns ∧
    s.nextRow.ledDelay = s.ledDelay ∧ s.nextRow.timerArmed = s.timerArmed ∧ s.nextRow.timerRem = s.timerRem ∧
    s.nextRow.radioConfigured = s.radioConfigured ∧ s.nextRow.radioRx = s.radioRx ∧
    s.nextRow.radioGroup = s.radioGroup ∧ s.nextRow.radioEnd = s.radioEnd ∧ s.nextRow.radioCrcok = s.radioCrcok ∧
    s.nextRow.rxbuf = s.rxbuf ∧ s.nextRow.rxdata = s.rxdata ∧ s.nextRow.rxLen = s.rxLen ∧
    s.nextRow.hostHandlers = s.hostHandlers ∧ s.nextRow.hostRequests = s.hostRequests ∧
    s.nextRow.hostCritical = s.hostCritical ∧ s.nextRow.cfg = s.cfg ∧ s.nextRow.hostData = s.hostData ∧
    s.nextRow.agenda = s.agenda ∧ s.nextRow.choices = s.choices :=
  ⟨rfl, rfl, rfl, rfl, rfl, rfl, rfl, rfl, rfl, rfl, rfl, rfl, rfl, rfl, rfl, rfl,
    rfl, rfl, rfl, rfl, rfl, rfl, rfl, rfl, rfl, rfl, rfl, rfl, rfl, rfl, rfl⟩

@[simp] theorem State.driveRow_fields (s : State) :
    s.driveRow.halted = s.halted ∧ s.driveRow.err = s.err ∧ s.driveRow.ledEn = s.ledEn ∧ s.driveRow.mode = s.mode ∧
    s.driveRow.intenEnd = s.intenEnd ∧ s.driveRow.img = s.img ∧ s.driveRow.pending = s.pending ∧
    s.driveRow.active = s.active ∧ s.driveRow.pendingUpdate = s.pendingUpdate ∧ s.driveRow.row = s.row ∧
    s.driveRow.mask = s.mask ∧ s.driveRow.rowAct = s.rowAct.set s.row.val true ∧ s.driveRow.colAct = s.colAct ∧
    s.driveRow.ledDelay = s.ledDelay ∧ s.driveRow.timerArmed = s.timerArmed ∧ s.driveRow.timerRem = s.timerRem ∧
    s.driveRow.radioConfigured = s.radioConfigured ∧ s.driveRow.radioRx = s.radioRx ∧
    s.driveRow.radioGroup = s.radioGroup ∧ s.driveRow.radioEnd = s.radioEnd ∧ s.driveRow.radioCrcok = s.radioCrcok ∧
    s.driveRow.rxbuf = s.rxbuf ∧ s.driveRow.rxdata = s.rxdata ∧ s.driveRow.rxLen = s.rxLen ∧
    s.driveRow.hostHandlers = s.hostHandlers ∧ s.driveRow.hostRequests = s.hostRequests ∧
    s.driveRow.hostCritical = s.hostCritical ∧ s.driveRow.cfg = s.cfg ∧ s.driveRow.hostData = s.hostData ∧
    s.driveRow.agenda = s.agenda ∧ s.driveRow.choices = s.choices :=
  ⟨rfl, rfl, rfl, rfl, rfl, rfl, rfl, rfl, rfl, rfl, rfl, rfl, rfl, rfl, rfl, rfl,
    rfl, rfl, rfl, rfl, rfl, rfl, rfl, rfl, rfl, rfl, rfl, rfl, rfl, rfl, rfl⟩

@[simp] theorem State.driveBinary_fields (s : State) :
    s.driveBinary.halted = s.halted ∧ s.driveBinary.err = s.err ∧ s.driveBinary.ledEn = s.ledEn ∧
    s.driveBinary.mode = s.mode ∧ s.driveBinary.intenEnd = s.intenEnd ∧ s.driveBinary.img = s.img ∧
    s.driveBinary.pending = s.pending ∧ s.driveBinary.active = s.active ∧
    s.driveBinary.pendingUpdate = s.pendingUpdate ∧ s.driveBinary.row = s.row ∧ s.driveBinary.mask = s.mask ∧
    s.driveBinary.rowAct = s.rowAct ∧ s.driveBinary.colAct = binaryColumns s.active s.row ∧
    s.driveBinary.ledDelay = s.ledDelay ∧ s.driveBinary.timerArmed = s.timerArmed ∧
    s.driveBinary.timerRem = s.timerRem ∧ s.driveBinary.radioConfigured = s.radioConfigured ∧
    s.driveBinary.radioRx = s.radioRx ∧ s.driveBinary.radioGroup = s.radioGroup ∧
    s.driveBinary.radioEnd = s.radioEnd ∧ s.driveBinary.radioCrcok = s.radioCrcok ∧ s.driveBinary.rxbuf = s.rxbuf ∧
    s.driveBinary.rxdata = s.rxdata ∧ s.driveBinary.rxLen = s.rxLen ∧ s.driveBinary.hostHandlers = s.hostHandlers ∧
    s.driveBinary.hostRequests = s.hostRequests ∧ s.driveBinary.hostCritical = s.hostCritical ∧
    s.driveBinary.cfg = s.cfg ∧ s.driveBinary.hostData = s.hostData ∧ s.driveBinary.agenda = s.agenda ∧
    s.driveBinary.choices = s.choices :=
  ⟨rfl, rfl, rfl, rfl, rfl, rfl, rfl, rfl, rfl, rfl, rfl, rfl, rfl, rfl, rfl, rfl,
    rfl, rfl, rfl, rfl, rfl, rfl, rfl, rfl, rfl, rfl, rfl, rfl, rfl, rfl, rfl⟩

@[simp] theorem State.drivePlane_fields (s : State) :
    s.drivePlane.halted = s.halted ∧ s.drivePlane.err = s.err ∧ s.drivePlane.ledEn = s.ledEn ∧
    s.drivePlane.mode = s.mode ∧ s.drivePlane.intenEnd = s.intenEnd ∧ s.drivePlane.img = s.img ∧
    s.drivePlane.pending = s.pending ∧ s.drivePlane.active = s.active ∧
    s.drivePlane.pendingUpdate = s.pendingUpdate ∧ s.drivePlane.row = s.row ∧ s.drivePlane.mask = s.mask ∧
    s.drivePlane.rowAct = s.rowAct ∧ s.drivePlane.colAct = planeColumns s.active s.row s.mask ∧
    s.drivePlane.ledDelay = s.ledDelay ∧ s.drivePlane.timerArmed = s.timerArmed ∧
    s.drivePlane.timerRem = s.timerRem ∧ s.drivePlane.radioConfigured = s.radioConfigured ∧
    s.drivePlane.radioRx = s.radioRx ∧ s.drivePlane.radioGroup = s.radioGroup ∧ s.drivePlane.radioEnd = s.radioEnd ∧
    s.drivePlane.radioCrcok = s.radioCrcok ∧ s.drivePlane.rxbuf = s.rxbuf ∧ s.drivePlane.rxdata = s.rxdata ∧
    s.drivePlane.rxLen = s.rxLen ∧ s.drivePlane.hostHandlers = s.hostHandlers ∧
    s.drivePlane.hostRequests = s.hostRequests ∧ s.drivePlane.hostCritical = s.hostCritical ∧
    s.drivePlane.cfg = s.cfg ∧ s.drivePlane.hostData = s.hostData ∧ s.drivePlane.agenda = s.agenda ∧
    s.drivePlane.choices = s.choices :=
  ⟨rfl, rfl, rfl, rfl, rfl, rfl, rfl, rfl, rfl, rfl, rfl, rfl, rfl, rfl, rfl, rfl,
    rfl, rfl, rfl, rfl, rfl, rfl, rfl, rfl, rfl, rfl, rfl, rfl, rfl, rfl, rfl⟩

@[simp] theorem State.rotateMask_fields (s : State) :
    s.rotateMask.halted = s.halted ∧ s.rotateMask.err = s.err ∧ s.rotateMask.ledEn = s.ledEn ∧
    s.rotateMask.mode = s.mode ∧ s.rotateMask.intenEnd = s.intenEnd ∧ s.rotateMask.img = s.img ∧
    s.rotateMask.pending = s.pending ∧ s.rotateMask.active = s.active ∧
    s.rotateMask.pendingUpdate = s.pendingUpdate ∧ s.rotateMask.row = s.row ∧ s.rotateMask.mask = rotl8 s.mask ∧
    s.rotateMask.rowAct = s.rowAct ∧ s.rotateMask.colAct = s.colAct ∧ s.rotateMask.ledDelay = s.ledDelay ∧
    s.rotateMask.timerArmed = s.timerArmed ∧ s.rotateMask.timerRem = s.timerRem ∧
    s.rotateMask.radioConfigured = s.radioConfigured ∧ s.rotateMask.radioRx = s.radioRx ∧
    s.rotateMask.radioGroup = s.radioGroup ∧ s.rotateMask.radioEnd = s.radioEnd ∧
    s.rotateMask.radioCrcok = s.radioCrcok ∧ s.rotateMask.rxbuf = s.rxbuf ∧ s.rotateMask.rxdata = s.rxdata ∧
    s.rotateMask.rxLen = s.rxLen ∧ s.rotateMask.hostHandlers = s.hostHandlers ∧
    s.rotateMask.hostRequests = s.hostRequests ∧ s.rotateMask.hostCritical = s.hostCritical ∧
    s.rotateMask.cfg = s.cfg ∧ s.rotateMask.hostData = s.hostData ∧ s.rotateMask.agenda = s.agenda ∧
    s.rotateMask.choices = s.choices :=
  ⟨rfl, rfl, rfl, rfl, rfl, rfl, rfl, rfl, rfl, rfl, rfl, rfl, rfl, rfl, rfl, rfl,
    rfl, rfl, rfl, rfl, rfl, rfl, rfl, rfl, rfl, rfl, rfl, rfl, rfl, rfl, rfl⟩

@[simp] theorem State.armTimer_fields (s : State) (d : Word) :
    (s.armTimer d).halted = s.halted ∧ (s.armTimer d).err = s.err ∧ (s.armTimer d).ledEn = s.ledEn ∧
    (s.armTimer d).mode = s.mode ∧ (s.armTimer d).intenEnd = s.intenEnd ∧ (s.armTimer d).img = s.img ∧
    (s.armTimer d).pending = s.pending ∧ (s.armTimer d).active = s.active ∧
    (s.armTimer d).pendingUpdate = s.pendingUpdate ∧ (s.armTimer d).row = s.row ∧ (s.armTimer d).mask = s.mask ∧
    (s.armTimer d).rowAct = s.rowAct ∧ (s.armTimer d).colAct = s.colAct ∧ (s.armTimer d).ledDelay = d ∧
    (s.armTimer d).timerArmed = true ∧ (s.armTimer d).timerRem = d ∧
    (s.armTimer d).radioConfigured = s.radioConfigured ∧ (s.armTimer d).radioRx = s.radioRx ∧
    (s.armTimer d).radioGroup = s.radioGroup ∧ (s.armTimer d).radioEnd = s.radioEnd ∧
    (s.armTimer d).radioCrcok = s.radioCrcok ∧ (s.armTimer d).rxbuf = s.rxbuf ∧ (s.armTimer d).rxdata = s.rxdata ∧
    (s.armTimer d).rxLen = s.rxLen ∧ (s.armTimer d).hostHandlers = s.hostHandlers ∧
    (s.armTimer d).hostRequests = s.hostRequests ∧ (s.armTimer d).hostCritical = s.hostCritical ∧
    (s.armTimer d).cfg = s.cfg ∧ (s.armTimer d).hostData = s.hostData ∧ (s.armTimer d).agenda = s.agenda ∧
    (s.armTimer d).choices = s.choices :=
  ⟨rfl, rfl, rfl, rfl, rfl, rfl, rfl, rfl, rfl, rfl, rfl, rfl, rfl, rfl, rfl, rfl,
    rfl, rfl, rfl, rfl, rfl, rfl, rfl, rfl, rfl, rfl, rfl, rfl, rfl, rfl, rfl⟩

@[simp] theorem State.takeFrame_fields (s : State) :
    s.takeFrame.halted = s.halted ∧ s.takeFrame.err = s.err ∧ s.takeFrame.ledEn = s.ledEn ∧
    s.takeFrame.mode = s.mode ∧ s.takeFrame.intenEnd = s.intenEnd ∧ s.takeFrame.img = s.img ∧
    s.takeFrame.pending = s.pending ∧ s.takeFrame.active = s.active ∧ s.takeFrame.pendingUpdate = s.pendingUpdate ∧
    s.takeFrame.row = s.row ∧ s.takeFrame.mask = s.mask ∧ s.takeFrame.rowAct = s.rowAct ∧
    s.takeFrame.colAct = s.colAct ∧ s.takeFrame.ledDelay = s.ledDelay ∧ s.takeFrame.timerArmed = s.timerArmed ∧
    s.takeFrame.timerRem = s.timerRem ∧ s.takeFrame.radioConfigured = s.radioConfigured ∧
    s.takeFrame.radioRx = s.radioRx ∧ s.takeFrame.radioGroup = s.radioGroup ∧ s.takeFrame.radioEnd = false ∧
    s.takeFrame.radioCrcok = s.radioCrcok ∧ s.takeFrame.rxbuf = s.rxbuf ∧
    s.takeFrame.rxdata = copyFirst (copyLength s.cfg s.rxbuf[0]) s.rxbuf s.rxdata ∧
    s.takeFrame.rxLen = BitVec.ofNat 32 (copyLength s.cfg s.rxbuf[0]) ∧ s.takeFrame.hostHandlers = s.hostHandlers ∧
    s.takeFrame.hostRequests = s.hostRequests ∧ s.takeFrame.hostCritical = s.hostCritical ∧ s.takeFrame.cfg = s.cfg ∧
    s.takeFrame.hostData = s.hostData ∧ s.takeFrame.agenda = s.agenda ∧ s.takeFrame.choices = s.choices :=
  ⟨rfl, rfl, rfl, rfl, rfl, rfl, rfl, rfl, rfl, rfl, rfl, rfl, rfl, rfl, rfl, rfl,
    rfl, rfl, rfl, rfl, rfl, rfl, rfl, rfl, rfl, rfl, rfl, rfl, rfl, rfl, rfl⟩

@[simp] theorem State.dropFrame_fields (s : State) :
    s.dropFrame.halted = s.halted ∧ s.dropFrame.err = s.err ∧ s.dropFrame.ledEn = s.ledEn ∧
    s.dropFrame.mode = s.mode ∧ s.dropFrame.intenEnd = s.intenEnd ∧ s.dropFrame.img = s.img ∧
    s.dropFrame.pending = s.pending ∧ s.dropFrame.active = s.active ∧ s.dropFrame.pendingUpdate = s.pendingUpdate ∧
    s.dropFrame.row = s.row ∧ s.dropFrame.mask = s.mask ∧ s.dropFrame.rowAct = s.rowAct ∧
    s.dropFrame.colAct = s.colAct ∧ s.dropFrame.ledDelay = s.ledDelay ∧ s.dropFrame.timerArmed = s.timerArmed ∧
    s.dropFrame.timerRem = s.timerRem ∧ s.dropFrame.radioConfigured = s.radioConfigured ∧
    s.dropFrame.radioRx = s.radioRx ∧ s.dropFrame.radioGroup = s.radioGroup ∧ s.dropFrame.radioEnd = false ∧
    s.dropFrame.radioCrcok = s.radioCrcok ∧ s.dropFrame.rxbuf = s.rxbuf ∧ s.dropFrame.rxdata = s.rxdata ∧
    s.dropFrame.rxLen = 0 ∧ s.dropFrame.hostHandlers = s.hostHandlers ∧ s.dropFrame.hostRequests = s.hostRequests ∧
    s.dropFrame.hostCritical = s.hostCritical ∧ s.dropFrame.cfg = s.cfg ∧ s.dropFrame.hostData = s.hostData ∧
    s.dropFrame.agenda = s.agenda ∧ s.dropFrame.choices = s.choices :=
  ⟨rfl, rfl, rfl, rfl, rfl, rfl, rfl, rfl, rfl, rfl, rfl, rfl, rfl, rfl, rfl, rfl,
    rfl, rfl, rfl, rfl, rfl, rfl, rfl, rfl, rfl, rfl, rfl, rfl, rfl, rfl, rfl⟩

@[simp] theorem State.storeFrame_fields (s : State) (f : Frame) :
    (s.storeFrame f).halted = s.halted ∧ (s.storeFrame f).err = s.err ∧ (s.storeFrame f).ledEn = s.ledEn ∧
    (s.storeFrame f).mode = s.mode ∧ (s.storeFrame f).intenEnd = s.intenEnd ∧ (s.storeFrame f).img = s.img ∧
    (s.storeFrame f).pending = s.pending ∧ (s.storeFrame f).active = s.active ∧
    (s.storeFrame f).pendingUpdate = s.pendingUpdate ∧ (s.storeFrame f).row = s.row ∧
    (s.storeFrame f).mask = s.mask ∧ (s.storeFrame f).rowAct = s.rowAct ∧ (s.storeFrame f).colAct = s.colAct ∧
    (s.storeFrame f).ledDelay = s.ledDelay ∧ (s.storeFrame f).timerArmed = s.timerArmed ∧
    (s.storeFrame f).timerRem = s.timerRem ∧ (s.storeFrame f).radioConfigured = s.radioConfigured ∧
    (s.storeFrame f).radioRx = false ∧ (s.storeFrame f).radioGroup = s.radioGroup ∧
    (s.storeFrame f).radioEnd = true ∧ (s.storeFrame f).radioCrcok = f.crcOk ∧
    (s.storeFrame f).rxbuf = storeBytes (keptLength s.cfg f) f.bytes s.rxbuf ∧ (s.storeFrame f).rxdata = s.rxdata ∧
    (s.storeFrame f).rxLen = s.rxLen ∧ (s.storeFrame f).hostHandlers = s.hostHandlers ∧
    (s.storeFrame f).hostRequests = s.hostRequests ∧ (s.storeFrame f).hostCritical = s.hostCritical ∧
    (s.storeFrame f).cfg = s.cfg ∧ (s.storeFrame f).hostData = s.hostData ∧ (s.storeFrame f).agenda = s.agenda ∧
    (s.storeFrame f).choices = s.choices :=
  ⟨rfl, rfl, rfl, rfl, rfl, rfl, rfl, rfl, rfl, rfl, rfl, rfl, rfl, rfl, rfl, rfl,
    rfl, rfl, rfl, rfl, rfl, rfl, rfl, rfl, rfl, rfl, rfl, rfl, rfl, rfl, rfl⟩

@[simp] theorem State.clearErr_fields (s : State) :
    s.clearErr.halted = s.halted ∧ s.clearErr.err = 0 ∧ s.clearErr.ledEn = s.ledEn ∧ s.clearErr.mode = s.mode ∧
    s.clearErr.intenEnd = s.intenEnd ∧ s.clearErr.img = s.img ∧ s.clearErr.pending = s.pending ∧
    s.clearErr.active = s.active ∧ s.clearErr.pendingUpdate = s.pendingUpdate ∧ s.clearErr.row = s.row ∧
    s.clearErr.mask = s.mask ∧ s.clearErr.rowAct = s.rowAct ∧ s.clearErr.colAct = s.colAct ∧
    s.clearErr.ledDelay = s.ledDelay ∧ s.clearErr.timerArmed = s.timerArmed ∧ s.clearErr.timerRem = s.timerRem ∧
    s.clearErr.radioConfigured = s.radioConfigured ∧ s.clearErr.radioRx = s.radioRx ∧
    s.clearErr.radioGroup = s.radioGroup ∧ s.clearErr.radioEnd = s.radioEnd ∧ s.clearErr.radioCrcok = s.radioCrcok ∧
    s.clearErr.rxbuf = s.rxbuf ∧ s.clearErr.rxdata = s.rxdata ∧ s.clearErr.rxLen = s.rxLen ∧
    s.clearErr.hostHandlers = s.hostHandlers ∧ s.clearErr.hostRequests = s.hostRequests ∧
    s.clearErr.hostCritical = s.hostCritical ∧ s.clearErr.cfg = s.cfg ∧ s.clearErr.hostData = s.hostData ∧
    s.clearErr.agenda = s.agenda ∧ s.clearErr.choices = s.choices :=
  ⟨rfl, rfl, rfl, rfl, rfl, rfl, rfl, rfl, rfl, rfl, rfl, rfl, rfl, rfl, rfl, rfl,
    rfl, rfl, rfl, rfl, rfl, rfl, rfl, rfl, rfl, rfl, rfl, rfl, rfl, rfl, rfl⟩

@[simp] theorem State.noteRequests_fields (s : State) :
    s.noteRequests.halted = s.halted ∧ s.noteRequests.err = s.err ∧ s.noteRequests.ledEn = s.ledEn ∧
    s.noteRequests.mode = s.mode ∧ s.noteRequests.intenEnd = s.intenEnd ∧ s.noteRequests.img = s.img ∧
    s.noteRequests.pending = s.pending ∧ s.noteRequests.active = s.active ∧
    s.noteRequests.pendingUpdate = s.pendingUpdate ∧ s.noteRequests.row = s.row ∧ s.noteRequests.mask = s.mask ∧
    s.noteRequests.rowAct = s.rowAct ∧ s.noteRequests.colAct = s.colAct ∧ s.noteRequests.ledDelay = s.ledDelay ∧
    s.noteRequests.timerArmed = s.timerArmed ∧ s.noteRequests.timerRem = s.timerRem ∧
    s.noteRequests.radioConfigured = s.radioConfigured ∧ s.noteRequests.radioRx = s.radioRx ∧
    s.noteRequests.radioGroup = s.radioGroup ∧ s.noteRequests.radioEnd = s.radioEnd ∧
    s.noteRequests.radioCrcok = s.radioCrcok ∧ s.noteRequests.rxbuf = s.rxbuf ∧ s.noteRequests.rxdata = s.rxdata ∧
    s.noteRequests.rxLen = s.rxLen ∧ s.noteRequests.hostHandlers = s.hostHandlers ∧
    s.noteRequests.hostRequests = s.requests ∧ s.noteRequests.hostCritical = s.hostCritical ∧
    s.noteRequests.cfg = s.cfg ∧ s.noteRequests.hostData = s.hostData ∧ s.noteRequests.agenda = s.agenda ∧
    s.noteRequests.choices = s.choices :=
  ⟨rfl, rfl, rfl, rfl, rfl, rfl, rfl, rfl, rfl, rfl, rfl, rfl, rfl, rfl, rfl, rfl,
    rfl, rfl, rfl, rfl, rfl, rfl, rfl, rfl, rfl, rfl, rfl, rfl, rfl, rfl, rfl⟩

@[simp] theorem State.beginCritical_fields (s : State) :
    s.beginCritical.halted = s.halted ∧ s.beginCritical.err = s.err ∧ s.beginCritical.ledEn = s.ledEn ∧
    s.beginCritical.mode = s.mode ∧ s.beginCritical.intenEnd = s.intenEnd ∧ s.beginCritical.img = s.img ∧
    s.beginCritical.pending = s.pending ∧ s.beginCritical.active = s.active ∧
    s.beginCritical.pendingUpdate = s.pendingUpdate ∧ s.beginCritical.row = s.row ∧ s.beginCritical.mask = s.mask ∧
    s.beginCritical.rowAct = s.rowAct ∧ s.beginCritical.colAct = s.colAct ∧ s.beginCritical.ledDelay = s.ledDelay ∧
    s.beginCritical.timerArmed = s.timerArmed ∧ s.beginCritical.timerRem = s.timerRem ∧
    s.beginCritical.radioConfigured = s.radioConfigured ∧ s.beginCritical.radioRx = s.radioRx ∧
    s.beginCritical.radioGroup = s.radioGroup ∧ s.beginCritical.radioEnd = s.radioEnd ∧
    s.beginCritical.radioCrcok = s.radioCrcok ∧ s.beginCritical.rxbuf = s.rxbuf ∧ s.beginCritical.rxdata = s.rxdata ∧
    s.beginCritical.rxLen = s.rxLen ∧ s.beginCritical.hostHandlers = s.hostHandlers ∧
    s.beginCritical.hostRequests = s.hostRequests ∧ s.beginCritical.hostCritical = true ∧
    s.beginCritical.cfg = s.cfg ∧ s.beginCritical.hostData = s.hostData ∧ s.beginCritical.agenda = s.agenda ∧
    s.beginCritical.choices = s.choices :=
  ⟨rfl, rfl, rfl, rfl, rfl, rfl, rfl, rfl, rfl, rfl, rfl, rfl, rfl, rfl, rfl, rfl,
    rfl, rfl, rfl, rfl, rfl, rfl, rfl, rfl, rfl, rfl, rfl, rfl, rfl, rfl, rfl⟩

@[simp] theorem State.endCritical_fields (s : State) :
    s.endCritical.halted = s.halted ∧ s.endCritical.err = s.err ∧ s.endCritical.ledEn = s.ledEn ∧
    s.endCritical.mode = s.mode ∧ s.endCritical.intenEnd = s.intenEnd ∧ s.endCritical.img = s.img ∧
    s.endCritical.pending = s.pending ∧ s.endCritical.active = s.active ∧
    s.endCritical.pendingUpdate = s.pendingUpdate ∧ s.endCritical.row = s.row ∧ s.endCritical.mask = s.mask ∧
    s.endCritical.rowAct = s.rowAct ∧ s.endCritical.colAct = s.colAct ∧ s.endCritical.ledDelay = s.ledDelay ∧
    s.endCritical.timerArmed = s.timerArmed ∧ s.endCritical.timerRem = s.timerRem ∧
    s.endCritical.radioConfigured = s.radioConfigured ∧ s.endCritical.radioRx = s.radioRx ∧
    s.endCritical.radioGroup = s.radioGroup ∧ s.endCritical.radioEnd = s.radioEnd ∧
    s.endCritical.radioCrcok = s.radioCrcok ∧ s.endCritical.rxbuf = s.rxbuf ∧ s.endCritical.rxdata = s.rxdata ∧
    s.endCritical.rxLen = s.rxLen ∧ s.endCritical.hostHandlers = s.hostHandlers ∧
    s.endCritical.hostRequests = s.hostRequests ∧ s.endCritical.hostCritical = false ∧ s.endCritical.cfg = s.cfg ∧
    s.endCritical.hostData = s.hostData ∧ s.endCritical.agenda = s.agenda ∧ s.endCritical.choices = s.choices :=
  ⟨rfl, rfl, rfl, rfl, rfl, rfl, rfl, rfl, rfl, rfl, rfl, rfl, rfl, rfl, rfl, rfl,
    rfl, rfl, rfl, rfl, rfl, rfl, rfl, rfl, rfl, rfl, rfl, rfl, rfl, rfl, rfl⟩

@[simp] theorem State.resetBlock_fields (s : State) :
    s.resetBlock.halted = (State.resetWith s.cfg).halted ∧ s.resetBlock.err = (State.resetWith s.cfg).err ∧
    s.resetBlock.ledEn = (State.resetWith s.cfg).ledEn ∧ s.resetBlock.mode = (State.resetWith s.cfg).mode ∧
    s.resetBlock.intenEnd = (State.resetWith s.cfg).intenEnd ∧ s.resetBlock.img = (State.resetWith s.cfg).img ∧
    s.resetBlock.pending = (State.resetWith s.cfg).pending ∧ s.resetBlock.active = (State.resetWith s.cfg).active ∧
    s.resetBlock.pendingUpdate = (State.resetWith s.cfg).pendingUpdate ∧
    s.resetBlock.row = (State.resetWith s.cfg).row ∧ s.resetBlock.mask = (State.resetWith s.cfg).mask ∧
    s.resetBlock.rowAct = (State.resetWith s.cfg).rowAct ∧ s.resetBlock.colAct = (State.resetWith s.cfg).colAct ∧
    s.resetBlock.ledDelay = (State.resetWith s.cfg).ledDelay ∧
    s.resetBlock.timerArmed = (State.resetWith s.cfg).timerArmed ∧
    s.resetBlock.timerRem = (State.resetWith s.cfg).timerRem ∧
    s.resetBlock.radioConfigured = (State.resetWith s.cfg).radioConfigured ∧
    s.resetBlock.radioRx = (State.resetWith s.cfg).radioRx ∧
    s.resetBlock.radioGroup = (State.resetWith s.cfg).radioGroup ∧
    s.resetBlock.radioEnd = (State.resetWith s.cfg).radioEnd ∧
    s.resetBlock.radioCrcok = (State.resetWith s.cfg).radioCrcok ∧
    s.resetBlock.rxbuf = (State.resetWith s.cfg).rxbuf ∧ s.resetBlock.rxdata = (State.resetWith s.cfg).rxdata ∧
    s.resetBlock.rxLen = (State.resetWith s.cfg).rxLen ∧ s.resetBlock.hostHandlers = s.hostHandlers ∧
    s.resetBlock.hostRequests = s.hostRequests ∧ s.resetBlock.hostCritical = s.hostCritical ∧
    s.resetBlock.cfg = s.cfg ∧ s.resetBlock.hostData = s.hostData ∧ s.resetBlock.agenda = s.agenda ∧
    s.resetBlock.choices = s.choices :=
  ⟨rfl, rfl, rfl, rfl, rfl, rfl, rfl, rfl, rfl, rfl, rfl, rfl, rfl, rfl, rfl, rfl,
    rfl, rfl, rfl, rfl, rfl, rfl, rfl, rfl, rfl, rfl, rfl, rfl, rfl, rfl, rfl⟩

/-- The fields after reset, whatever the configuration (10_state.md R50). -/
@[simp] theorem State.resetWith_fields (c : Config) :
    (State.resetWith c).halted = false ∧ (State.resetWith c).err = 0 ∧ (State.resetWith c).ledEn = false ∧
    (State.resetWith c).mode = .bitPlane ∧ (State.resetWith c).intenEnd = false ∧
    (State.resetWith c).img = Vector.replicate 25 0 ∧ (State.resetWith c).pending = Vector.replicate 27 0 ∧
    (State.resetWith c).active = Vector.replicate 27 0 ∧ (State.resetWith c).pendingUpdate = false ∧
    (State.resetWith c).row = 0 ∧ (State.resetWith c).mask = 0x01 ∧
    (State.resetWith c).rowAct = Vector.replicate 3 false ∧ (State.resetWith c).colAct = Vector.replicate 9 false ∧
    (State.resetWith c).ledDelay = 0 ∧ (State.resetWith c).timerArmed = false ∧ (State.resetWith c).timerRem = 0 ∧
    (State.resetWith c).radioConfigured = false ∧ (State.resetWith c).radioRx = false ∧
    (State.resetWith c).radioGroup = 0 ∧ (State.resetWith c).radioEnd = false ∧
    (State.resetWith c).radioCrcok = false ∧ (State.resetWith c).rxbuf = Vector.replicate 64 0 ∧
    (State.resetWith c).rxdata = Vector.replicate 64 0 ∧ (State.resetWith c).rxLen = 0 ∧
    (State.resetWith c).hostHandlers = [] ∧ (State.resetWith c).hostRequests = [] ∧
    (State.resetWith c).hostCritical = false ∧
    (State.resetWith c).cfg = c ∧ (State.resetWith c).hostData = 0 ∧ (State.resetWith c).agenda = [] ∧
    (State.resetWith c).choices = 0 :=
  ⟨rfl, rfl, rfl, rfl, rfl, rfl, rfl, rfl, rfl, rfl, rfl, rfl, rfl, rfl, rfl, rfl,
    rfl, rfl, rfl, rfl, rfl, rfl, rfl, rfl, rfl, rfl, rfl, rfl, rfl, rfl, rfl⟩

end Sys2Proof.Machine
end

