-- ==== Sys2Proof/Laws/Ops.lean ====
section
/-! SUPPORT. One lemma for each shared operation that says everything it can do: cite these instead of unfolding the
operation. -/

namespace Sys2Proof.Machine

/-! ## Commands and errors -/

theorem unlessHalted_running {s : State} (o : StepOutcome) (h : s.halted = false) : unlessHalted s o = o := by
  simp [unlessHalted, h]

theorem unlessHalted_halted {s : State} (o : StepOutcome) (h : s.halted = true) : unlessHalted s o = .next s := by
  simp [unlessHalted, h]

theorem unlessHalted_next_cases {s t : State} {o : StepOutcome} (h : unlessHalted s o = .next t) :
    (s.halted = true ∧ t = s) ∨ (s.halted = false ∧ o = .next t) := by
  cases hs : s.halted with
  | true => rw [unlessHalted_halted o hs] at h; exact .inl ⟨rfl, by injection h with h; exact h.symm⟩
  | false => rw [unlessHalted_running o hs] at h; exact .inr ⟨rfl, h⟩

/-- A command answers a next state by its own operation, or is ignored because the block is HALTED. -/
theorem exec_next_cases {i : Instr} {s t : State} (h : exec i s = .next t) :
    (s.halted = true ∧ t = s) ∨
    (s.halted = false ∧
      match i with
      | .ledSubmit => t = s.submit
      | .ledClear => t = s.clearLines
      | .ledStep => s.activation = some t
      | .radioConfigure group => t = s.configureRadio group
      | .radioStartRx => t = s.startReceive
      | .radioReceive => t = s.receive
      | .errClear => t = s.clearErr) := by
  have own : ∀ {u v : State}, (Host.Outcome.next u : StepOutcome) = .next v → v = u :=
    fun h => by injection h with h; exact h.symm
  cases i with
  | ledSubmit => exact (unlessHalted_next_cases h).imp id fun ⟨hs, e⟩ => ⟨hs, own e⟩
  | ledClear => exact (unlessHalted_next_cases h).imp id fun ⟨hs, e⟩ => ⟨hs, own e⟩
  | ledStep =>
    refine (unlessHalted_next_cases h).imp id fun ⟨hs, e⟩ => ⟨hs, ?_⟩
    simp only [State.activate] at e
    split at e
    · next _ ha => rw [ha]; exact congrArg some (own e).symm
    · cases e
  | radioConfigure group => exact (unlessHalted_next_cases h).imp id fun ⟨hs, e⟩ => ⟨hs, own e⟩
  | radioStartRx => exact (unlessHalted_next_cases h).imp id fun ⟨hs, e⟩ => ⟨hs, own e⟩
  | radioReceive => exact (unlessHalted_next_cases h).imp id fun ⟨hs, e⟩ => ⟨hs, own e⟩
  | errClear => exact (unlessHalted_next_cases h).imp id fun ⟨hs, e⟩ => ⟨hs, own e⟩

/-! ## The sequencer -/

/-- `RowAdvance`, field by field: the row, its lines, and the commit where row 0 is reached with an update pending. -/
theorem State.rowAdvance_eq (s : State) :
    s.rowAdvance =
      { s with
        row := s.row + 1
        rowAct := (s.rowAct.set s.row.val false).set (s.row + 1).val true
        colAct := noColumns
        active := if s.row + 1 = 0 ∧ s.pendingUpdate = true then s.pending else s.active
        pendingUpdate := if s.row + 1 = 0 ∧ s.pendingUpdate = true then false else s.pendingUpdate } := by
  by_cases h : s.row + 1 = 0 ∧ s.pendingUpdate = true
  · have hn : s.nextRow.row = 0 ∧ s.nextRow.pendingUpdate = true := h
    rw [if_pos h, if_pos h, State.rowAdvance, State.commitAtWrap, if_pos hn]; rfl
  · have hn : ¬(s.nextRow.row = 0 ∧ s.nextRow.pendingUpdate = true) := h
    rw [if_neg h, if_neg h, State.rowAdvance, State.commitAtWrap, if_neg hn]; rfl

/-- A bit-plane step whose rotated mask is not 0x01 moves only the mask and the columns. -/
theorem State.stepBitPlane_of_not_wrap {s : State} (h : rotl8 s.mask ≠ 0x01) :
    s.stepBitPlane =
      { s with mask := rotl8 s.mask, colAct := planeColumns s.active s.row (rotl8 s.mask) } := by
  rw [State.stepBitPlane, State.advanceAtWrap, if_neg (by simpa using h)]; rfl

/-- A bit-plane step that wraps also advances the row. -/
theorem State.stepBitPlane_of_wrap {s : State} (h : rotl8 s.mask = 0x01) :
    s.stepBitPlane = s.rotateMask.rowAdvance.drivePlane := by
  rw [State.stepBitPlane, State.advanceAtWrap, if_pos (by simpa using h)]

theorem State.step1_rowCycle {s : State} (h : s.mode = .rowCycle) : s.step1 = s.stepRowCycle := by
  rw [State.step1, h]

theorem State.step1_bitPlane {s : State} (h : s.mode = .bitPlane) : s.step1 = s.stepBitPlane := by
  rw [State.step1, h]

/-- What a step of the sequencer may change; everything else stands. -/
theorem State.step1_frame (s : State) :
    ∃ row mask rowAct colAct active pendingUpdate,
      s.step1 = { s with row := row, mask := mask, rowAct := rowAct, colAct := colAct, active := active,
                         pendingUpdate := pendingUpdate } := by
  cases hm : s.mode with
  | rowCycle =>
    exact ⟨_, _, _, _, _, _, by rw [State.step1_rowCycle hm, State.stepRowCycle, State.rowAdvance_eq, ← hm]; rfl⟩
  | bitPlane =>
    by_cases h : rotl8 s.mask = 0x01
    · exact ⟨_, _, _, _, _, _, by
        rw [State.step1_bitPlane hm, State.stepBitPlane_of_wrap h, State.rowAdvance_eq, ← hm]; rfl⟩
    · exact ⟨_, _, _, _, _, _, by rw [State.step1_bitPlane hm, State.stepBitPlane_of_not_wrap h, ← hm]⟩

/-- The steps of an activation end in a state that a positive number of steps, at most n, reaches, with its delay, which
is nonzero. -/
theorem State.stepUntilDelay_spec {n : Nat} {s t : State} {d : Word} (h : s.stepUntilDelay n = some (t, d)) :
    ∃ k, 1 ≤ k ∧ k ≤ n ∧ t = State.steps k s ∧ t.stepDelay = some d ∧ d ≠ 0 := by
  induction n generalizing s with
  | zero => simp [State.stepUntilDelay] at h
  | succ n ih =>
    rw [State.stepUntilDelay] at h
    split at h
    · cases h
    · next d' hd =>
      by_cases h0 : d' = 0
      · rw [if_pos h0] at h
        obtain ⟨k, hk1, hkn, ht, hdel, hne⟩ := ih h
        exact ⟨k + 1, by omega, by omega, by rw [State.steps]; exact ht, hdel, hne⟩
      · rw [if_neg h0] at h
        obtain ⟨rfl, rfl⟩ : s.step1 = t ∧ d' = d := by simpa using h
        exact ⟨1, le_refl 1, by omega, rfl, hd, h0⟩

/-- A property that every step keeps holds after any number of steps. -/
theorem State.steps_keep {P : State → Prop} (hP : ∀ u, P u → P u.step1) (n : Nat) {s : State} (hs : P s) :
    P (State.steps n s) := by
  induction n generalizing s with
  | zero => exact hs
  | succ n ih => exact ih (hP s hs)

/-- An activation is a positive number of steps, at most 8, and the arming of the timer with a nonzero delay. -/
theorem State.activation_spec {s t : State} (h : s.activation = some t) :
    ∃ k d, 1 ≤ k ∧ k ≤ 8 ∧ d ≠ 0 ∧ (State.steps k s).stepDelay = some d ∧ t = (State.steps k s).armTimer d := by
  obtain ⟨⟨u, d⟩, hr, rfl⟩ := Option.map_eq_some_iff.mp h
  obtain ⟨k, hk1, hk8, rfl, hd, hne⟩ := State.stepUntilDelay_spec hr
  exact ⟨k, d, hk1, hk8, hne, hd, rfl⟩

/-- An activation that answers a next state is `activation`'s. -/
theorem State.activate_next {s t : State} (h : s.activate = .next t) : s.activation = some t := by
  unfold State.activate at h
  split at h
  · next _ ha => rw [ha]; injection h with h; rw [h]
  · cases h

/-- A tick does nothing, counts down, or runs an activation. -/
theorem State.tick_next_cases {s t : State} (h : s.tick = .next t) :
    (s.tickEnabled = false ∧ t = s) ∨
    (s.tickEnabled = true ∧ 1 < s.timerRem.toNat ∧ t = { s with timerRem := s.timerRem - 1 }) ∨
    (s.tickEnabled = true ∧ s.timerRem.toNat ≤ 1 ∧ State.activation { s with timerArmed := false } = some t) := by
  unfold State.tick at h
  split at h
  · next he =>
    split at h
    · next hr => exact .inr (.inr ⟨he, hr, State.activate_next h⟩)
    · next hr => injection h with h; exact .inr (.inl ⟨he, by omega, h.symm⟩)
  · next he => injection h with h; exact .inl ⟨by simpa using he, h.symm⟩

/-! ## Register writes -/

/-- A CTRL write is ignored while HALTED, or sets the three fields after the edge action of LED_EN. -/
theorem State.writeCtrl_cases (s : State) (v : Word) :
    (s.halted = true ∧ s.writeCtrl v = s) ∨
    (s.halted = false ∧
      s.writeCtrl v =
        { s with
          ledEn := v.getLsbD 0
          mode := modeOfBit (v.getLsbD 1)
          intenEnd := v.getLsbD 2
          timerArmed := if s.ledEn = v.getLsbD 0 then s.timerArmed else v.getLsbD 0
          timerRem := if s.ledEn = v.getLsbD 0 then s.timerRem else if v.getLsbD 0 then 1 else 0 }) := by
  cases hs : s.halted with
  | true => exact .inl ⟨rfl, by simp [State.writeCtrl, hs]⟩
  | false =>
    refine .inr ⟨rfl, ?_⟩
    unfold State.writeCtrl
    generalize v.getLsbD 0 = b
    rw [if_neg (by simp [hs])]
    cases hl : s.ledEn <;> cases b <;> simp [State.ledEnEdge, hl, hs]

/-- An IMG write is ignored while HALTED, or writes the image and nothing else. -/
theorem State.writeImg_cases (s : State) (j : Fin 7) (v : Word) :
    (s.halted = true ∧ s.writeImg j v = s) ∨
    (s.halted = false ∧ s.writeImg j v = { s with img := storeImgWord j v s.img }) := by
  cases hs : s.halted <;> simp [State.writeImg, hs]

/-! ## The radio -/

theorem State.configureRadio_cases (s : State) (g : Byte) :
    (s.radioRx = true ∧ s.configureRadio g = s.raiseHalt .haltConfigNotDisabled) ∨
    (s.radioRx = false ∧ s.configureRadio g = { s with radioGroup := g, radioConfigured := true }) := by
  cases h : s.radioRx <;> simp [State.configureRadio, h]

theorem State.startReceive_cases (s : State) :
    (s.radioConfigured = false ∧ s.startReceive = s.raiseErr .notConfigured) ∨
    (s.radioConfigured = true ∧ s.radioEnd = true ∧ s.startReceive = s.raiseErr .framePending) ∨
    (s.radioConfigured = true ∧ s.radioEnd = false ∧
      s.startReceive = { s with radioRx := true, intenEnd := true }) := by
  cases hc : s.radioConfigured <;> cases he : s.radioEnd <;> simp [State.startReceive, hc, he]

theorem State.receive_cases (s : State) :
    (s.radioEnd = false ∧ s.receive = { s with rxLen := 0, err := 4 }) ∨
    (s.radioEnd = true ∧ s.radioCrcok = true ∧ s.receive = s.takeFrame) ∨
    (s.radioEnd = true ∧ s.radioCrcok = false ∧ s.receive = s.dropFrame) := by
  cases he : s.radioEnd <;> cases hc : s.radioCrcok <;>
    simp [State.receive, he, hc, State.raiseErr, ErrCode.code]

theorem State.deliver_cases (s : State) (f : Frame) :
    (s.deliver f = s) ∨
    (s.halted = false ∧ s.radioRx = true ∧ f.base = s.cfg.baseAddr ∧ f.addrPrefix = s.radioGroup ∧
      s.deliver f = s.storeFrame f) := by
  unfold State.deliver
  split
  · next h =>
    simp only [State.frameEnabled, frameMatches, Bool.and_eq_true, Bool.not_eq_true', beq_iff_eq] at h
    exact .inr ⟨h.1.1, h.1.2, h.2.1, h.2.2, rfl⟩
  · exact .inl rfl

/-! ## Host contexts and reset -/

theorem State.takeIrq_cases (s : State) (src : IrqSource) :
    (s.takeIrq src = s) ∨
    (s.hostCritical = false ∧ s.nextIrq = some src ∧ s.yieldsTo src = true ∧
      s.takeIrq src = { s with hostHandlers := src :: s.hostHandlers, hostRequests := s.requestsAfter src }) := by
  unfold State.takeIrq
  split
  · next h =>
    simp only [Bool.and_eq_true, Bool.not_eq_true', beq_iff_eq] at h
    exact .inr ⟨h.1.1, h.1.2, h.2, rfl⟩
  · exact .inl rfl

theorem State.request_cases (s : State) (src : IrqSource) :
    (s.request src = s) ∨
    (src ≠ .radioFrameComplete ∧ src ∉ s.requests ∧
      s.request src = { s with hostRequests := s.requests ++ [src] }) := by
  unfold State.request
  split
  · exact .inl rfl
  · next h => exact .inr ⟨fun e => h (.inl e), fun e => h (.inr e), rfl⟩

theorem State.returnFromIrq_cases (s : State) :
    (s.hostCritical = true ∧ s.returnFromIrq = s) ∨
    (s.hostCritical = false ∧ s.returnFromIrq = { s with hostHandlers := s.hostHandlers.tail }) := by
  cases h : s.hostCritical <;> simp [State.returnFromIrq, h]

theorem State.resetEvent_cases (s : State) (src : ResetSource) :
    (resetsBlock s.cfg src = true ∧ s.resetEvent src = s.resetBlock) ∨
    (resetsBlock s.cfg src = false ∧ s.resetEvent src = s) := by
  cases h : resetsBlock s.cfg src <;> simp [State.resetEvent, h]

/-! ## Accesses, events and the step -/

/-- A write that answers a next state issued a command, wrote CTRL, wrote an image word, or was ignored. -/
theorem writeOffset_next_cases {off : Offset} {v : Word} {s t : State} (h : writeOffset off v s = .next t) :
    (regAt off = some .cmd ∧ command v s = .next t) ∨ (regAt off = some .ctrl ∧ t = s.writeCtrl v) ∨
    (∃ j, regAt off = some (.img j) ∧ t = s.writeImg j v) ∨ t = s := by
  have own : ∀ {u : State}, (Host.Outcome.next u : StepOutcome) = .next t → t = u :=
    fun h => by injection h with h; exact h.symm
  unfold writeOffset at h
  split at h
  · next r hr =>
    cases r with
    | cmd => exact .inl ⟨hr, h⟩
    | ctrl => exact .inr (.inl ⟨hr, own h⟩)
    | img j => exact .inr (.inr (.inl ⟨j, hr, own h⟩))
    | _ => exact .inr (.inr (.inr (own h)))
  · exact .inr (.inr (.inr (own h)))

/-- A word written to CMD runs the command it decodes to, or records its error unless the block is HALTED. -/
theorem command_cases (w : Word) (s : State) :
    (∃ i, decode w = .ok i ∧ command w s = exec i s) ∨
    (∃ e, decode w = .error e ∧ command w s = unlessHalted s (.next (s.raiseErr (decodeErrCode e)))) := by
  unfold command
  split
  · next i h => exact .inl ⟨i, h, rfl⟩
  · next e h => exact .inr ⟨e, h, rfl⟩

/-- An admitted access is 32 bits wide at a multiple of 4. -/
theorem accessAdmitted_iff {size : AccessSize} {off : Offset} :
    accessAdmitted size off = true ↔ size = .bits32 ∧ off.toNat % 4 = 0 := by
  simp [accessAdmitted]

/-- What a host act that answers a next state did; an access among these was an admitted one. -/
theorem hostStep_next_cases {op : HostOp} {s t : State} (h : hostStep op s = .next t) :
    (∃ off, (op = .read .bits32 off ∨ op = .testEnd ∧ off = Reg.status.offset) ∧ off.toNat % 4 = 0 ∧
      t = { s with hostData := readOffset s off }) ∨
    (∃ off v, op = .write .bits32 off v ∧ off.toNat % 4 = 0 ∧ writeOffset off v s = .next t) ∨ t = s ∨
    t = s.beginCritical ∨ t = s.endCritical ∨ (∃ src, t = s.takeIrq src) ∨ t = s.returnFromIrq := by
  have own : ∀ {u : State}, (Host.Outcome.next u : StepOutcome) = .next t → t = u :=
    fun h => by injection h with h; exact h.symm
  cases op with
  | read size off =>
    simp only [hostStep] at h
    split at h
    · next ha =>
      obtain ⟨rfl, ho⟩ := accessAdmitted_iff.mp ha
      exact .inl ⟨off, .inl rfl, ho, own h⟩
    · cases h
  | write size off v =>
    simp only [hostStep] at h
    split at h
    · next ha =>
      obtain ⟨rfl, ho⟩ := accessAdmitted_iff.mp ha
      exact .inr (.inl ⟨off, v, rfl, ho, h⟩)
    · cases h
  | testEnd => exact .inl ⟨_, .inr ⟨rfl, rfl⟩, by decide, own h⟩
  | fence => exact .inr (.inr (.inl (own h)))
  | beginCritical => exact .inr (.inr (.inr (.inl (own h))))
  | endCritical => exact .inr (.inr (.inr (.inr (.inl (own h)))))
  | takeIrq src => exact .inr (.inr (.inr (.inr (.inr (.inl ⟨src, own h⟩)))))
  | returnFromIrq => exact .inr (.inr (.inr (.inr (.inr (.inr (own h))))))

/-- What an event that answers a next state did. -/
theorem perform_next_cases {e : Event} {s t : State} (h : perform e s = .next t) :
    (∃ op, e = .host op ∧ hostStep op s = .next t) ∨ (e = .tick ∧ s.tick = .next t) ∨
    (∃ f, e = .frame f ∧ t = s.deliver f) ∨ (∃ src, e = .reset src ∧ t = s.resetEvent src) ∨
    (∃ src, e = .request src ∧ t = s.request src) := by
  have own : ∀ {u : State}, (Host.Outcome.next u : StepOutcome) = .next t → t = u :=
    fun h => by injection h with h; exact h.symm
  cases e with
  | host op => exact .inl ⟨op, rfl, h⟩
  | tick => exact .inr (.inl ⟨rfl, h⟩)
  | frame f => exact .inr (.inr (.inl ⟨f, rfl, own h⟩))
  | reset src => exact .inr (.inr (.inr (.inl ⟨src, rfl, own h⟩)))
  | request src => exact .inr (.inr (.inr (.inr ⟨src, rfl, own h⟩)))

/-- Taking the next event off changes only the agenda or the count of free events. -/
theorem dropEvent_frame (s : State) : ∃ agenda choices, dropEvent s = { s with agenda := agenda, choices := choices } := by
  cases h : s.agenda with
  | nil => exact ⟨s.agenda, s.choices + 1, by simp [dropEvent, h]⟩
  | cons e rest => exact ⟨rest, s.choices, by simp [dropEvent, h]⟩

/-- The step is the event that happens next, once the host has noted its line. -/
theorem step_eq_perform (s : State) : step s = perform (nextEvent s) (dropEvent s).noteRequests := rfl

end Sys2Proof.Machine
end

