-- ==== Sys2Proof/Laws/Host.lean ====
section
/-! SUPPORT. The host's interrupt requests: which wait, in what order, and which the host takes next (60_exceptions.md
R147, R151, R154). -/

namespace Sys2Proof.Machine

/-! ## The waiting requests -/

theorem State.requests_of_asserted_new {s : State} (h : s.irqRadioEnd = true) (hn : .radioFrameComplete ∉ s.hostRequests) :
    s.requests = s.hostRequests ++ [.radioFrameComplete] := by
  simp [State.requests, h, hn]

theorem State.requests_of_asserted_known {s : State} (h : s.irqRadioEnd = true) (hn : .radioFrameComplete ∈ s.hostRequests) :
    s.requests = s.hostRequests := by
  simp [State.requests, h, hn]

theorem State.requests_of_deasserted {s : State} (h : s.irqRadioEnd = false) :
    s.requests = s.hostRequests.filter (· != .radioFrameComplete) := by
  simp [State.requests, h]

/-- The radio waits exactly while its line is asserted (60_exceptions.md R147). -/
theorem State.radio_mem_requests (s : State) : .radioFrameComplete ∈ s.requests ↔ s.irqRadioEnd = true := by
  cases h : s.irqRadioEnd with
  | false => simp [State.requests_of_deasserted h]
  | true =>
    by_cases hn : .radioFrameComplete ∈ s.hostRequests
    · simp [State.requests_of_asserted_known h hn, hn]
    · simp [State.requests_of_asserted_new h hn]

/-- Another source waits exactly where its request was recorded. -/
theorem State.device_mem_requests {s : State} {src : IrqSource} (h : src ≠ .radioFrameComplete) :
    src ∈ s.requests ↔ src ∈ s.hostRequests := by
  unfold State.requests
  split
  · split <;> simp [h]
  · simp [h]

theorem State.requests_nodup {s : State} (h : s.hostRequests.Nodup) : s.requests.Nodup := by
  cases hl : s.irqRadioEnd with
  | false => rw [State.requests_of_deasserted hl]; exact h.filter _
  | true =>
    by_cases hn : .radioFrameComplete ∈ s.hostRequests
    · rw [State.requests_of_asserted_known hl hn]; exact h
    · rw [State.requests_of_asserted_new hl hn]
      exact List.nodup_append'.mpr ⟨h, List.nodup_singleton _, by simpa using hn⟩

theorem State.requestsAfter_nodup {s : State} (src : IrqSource) (h : s.hostRequests.Nodup) : (s.requestsAfter src).Nodup := by
  unfold State.requestsAfter
  split
  · exact State.requests_nodup h
  · exact (State.requests_nodup h).filter _

/-- Noting the line again changes nothing. -/
@[simp] theorem State.requests_noteRequests (s : State) : s.noteRequests.requests = s.requests := by
  have e : s.noteRequests.irqRadioEnd = s.irqRadioEnd := rfl
  cases h : s.irqRadioEnd with
  | false =>
    rw [State.requests_of_deasserted (e.trans h), State.noteRequests, State.requests_of_deasserted h]
    simp
  | true => exact State.requests_of_asserted_known (e.trans h) ((State.radio_mem_requests s).mpr h)

/-! ## The most urgent request -/

/-- The most urgent request stands in the list, after none as urgent and before none more urgent (60_exceptions.md
R154). -/
theorem mostUrgent_spec {c : Config} {l : List IrqSource} {src : IrqSource} (h : mostUrgent c l = some src) :
    ∃ before after, l = before ++ src :: after ∧ (∀ r ∈ before, irqPriority c r < irqPriority c src) ∧
      ∀ r ∈ after, irqPriority c r ≤ irqPriority c src := by
  induction l generalizing src with
  | nil => cases h
  | cons first rest ih =>
    rw [mostUrgent] at h
    split at h
    · next hr =>
      obtain rfl := Option.some.inj h
      refine ⟨[], rest, rfl, by simp, fun r hm => ?_⟩
      cases rest with
      | nil => cases hm
      | cons a b => rw [mostUrgent] at hr; split at hr <;> (try split at hr) <;> cases hr
    · next other hr =>
      obtain ⟨before, after, rfl, hb, ha⟩ := ih hr
      split at h
      · next hlt =>
        obtain rfl := Option.some.inj h
        exact ⟨first :: before, after, rfl, List.forall_mem_cons.mpr ⟨hlt, hb⟩, ha⟩
      · next hge =>
        obtain rfl := Option.some.inj h
        refine ⟨[], _, rfl, by simp, fun r hm => ?_⟩
        rcases List.mem_append.mp hm with hm | hm
        · exact (hb r hm).le.trans (Nat.le_of_not_lt hge)
        · rcases List.mem_cons.mp hm with rfl | hm
          · exact Nat.le_of_not_lt hge
          · exact (ha r hm).trans (Nat.le_of_not_lt hge)

/-- There is a most urgent request wherever there is any. -/
theorem mostUrgent_isSome {c : Config} {l : List IrqSource} (h : l ≠ []) : (mostUrgent c l).isSome = true := by
  cases l with
  | nil => exact absurd rfl h
  | cons a b => rw [mostUrgent]; split <;> (try split) <;> rfl

/-- The source whose handler may start waits, and its handler is not running. -/
theorem State.nextIrq_mem {s : State} {src : IrqSource} (h : s.nextIrq = some src) :
    src ∈ s.requests ∧ src ∉ s.hostHandlers := by
  obtain ⟨before, after, e, -, -⟩ := mostUrgent_spec h
  have hm : src ∈ s.requests.filter fun r => !s.hostHandlers.contains r := by rw [e]; simp
  simpa using hm

end Sys2Proof.Machine
end

