-- ==== Sys2Proof/Laws/Operands.lean ====
section
/-! SUPPORT. What the operand computations give, byte by byte and bit by bit. -/

namespace Sys2Proof.Machine

/-! ## Byte arrays -/

@[simp] theorem getElem_copyFirst (n : Nat) (src old : Vector Byte 64) (i : Nat) (h : i < 64) :
    (copyFirst n src old)[i] = if i < n then src[i] else old[i] := by
  simp [copyFirst]

@[simp] theorem getElem_storeBytes (n : Nat) (b : List Byte) (old : Vector Byte 64) (i : Nat) (h : i < 64) :
    (storeBytes n b old)[i] = if i < n then (b[i]?).getD old[i] else old[i] := by
  simp [storeBytes]

@[simp] theorem getElem_storeImgWord (j : Fin 7) (v : Word) (img : Vector Byte 25) (k : Nat) (h : k < 25) :
    (storeImgWord j v img)[k] = if k / 4 = j.val then byteOf v (k % 4) else img[k] := by
  simp [storeImgWord]

@[simp] theorem getElem_binaryColumns (active : Vector Byte 27) (row : Fin 3) (c : Nat) (h : c < 9) :
    (binaryColumns active row)[c] = (cell active row ⟨c, h⟩ != 0) := by
  simp [binaryColumns]

@[simp] theorem getElem_planeColumns (active : Vector Byte 27) (row : Fin 3) (mask : Byte) (c : Nat) (h : c < 9) :
    (planeColumns active row mask)[c] = (cell active row ⟨c, h⟩ &&& mask != 0) := by
  simp [planeColumns]

@[simp] theorem getElem_noRows (r : Nat) (h : r < 3) : noRows[r] = false := by simp [noRows]

@[simp] theorem getElem_noColumns (c : Nat) (h : c < 9) : noColumns[c] = false := by simp [noColumns]

/-- Byte i of a packed word is byte 4·j + i of the array, 0 past its end. -/
theorem byteOf_packWord {n : Nat} (b : Vector Byte n) (j i : Nat) (h : i < 4) :
    byteOf (packWord b j) i = (b[4 * j + i]?).getD 0 := by
  apply BitVec.eq_of_getLsbD_eq
  intro k hk
  obtain rfl | rfl | rfl | rfl : i = 0 ∨ i = 1 ∨ i = 2 ∨ i = 3 := by omega
  all_goals
    simp only [byteOf, packWord, BitVec.getLsbD_extractLsb', BitVec.getLsbD_append, hk, decide_true, Bool.true_and]
    simp [show ¬(8 + k < 8) by omega, show ¬(16 + k < 8) by omega, show ¬(24 + k < 8) by omega,
      show ¬(16 + k - 8 < 8) by omega, show ¬(24 + k - 8 < 8) by omega, show ¬(24 + k - 8 - 8 < 8) by omega, hk]
  all_goals simp_all [show 16 + k - 8 - 8 = k by omega, show 24 + k - 8 - 8 - 8 = k by omega]

/-! ## The mask and the dwell -/

/-- The one-hot bytes are the eight powers of two. -/
theorem oneHot_iff (m : Byte) : oneHot m = true ↔ ∃ k : Fin 8, m = 1#8 <<< k.val := by
  simp only [oneHot, ctz8, List.find?_isSome, List.mem_finRange, true_and, beq_iff_eq]

theorem ctz8_shift (k : Fin 8) : ctz8 (1#8 <<< k.val) = some k := by revert k; decide

/-- The rotation takes plane k to plane k + 1 modulo 8. -/
theorem rotl8_shift (k : Fin 8) : rotl8 (1#8 <<< k.val) = 1#8 <<< (k + 1).val := by revert k; decide

/-- The mask is 0x01 exactly on plane 0 (40_led.md R99). -/
theorem shift_eq_one_iff (k : Fin 8) : (1#8 <<< k.val = 0x01#8) ↔ k = 0 := by revert k; decide

theorem oneHot_rotl8 {m : Byte} (h : oneHot m = true) : oneHot (rotl8 m) = true := by
  obtain ⟨k, rfl⟩ := (oneHot_iff m).mp h
  rw [rotl8_shift]
  exact (oneHot_iff _).mpr ⟨_, rfl⟩

theorem dwell_of_not_wrapped (c : Config) (k : Fin 8) : dwell c k false = c.dwell[k] := by
  unfold dwell; split <;> first | rfl | contradiction

theorem dwell_of_wrapped (c : Config) (k : Fin 8) : dwell c k true = c.wrapDelay.getD c.dwell[k] := by
  unfold dwell; cases c.wrapDelay <;> rfl

/-! ## The configuration and the coordinate table -/

theorem Config.parts (c : Config) :
    c.mapInjective = true ∧ c.someDwell = true ∧ c.rowPeriodPositive = true ∧ c.rxCapLegal = true ∧
      c.rxCopyAdjLegal = true ∧ c.blockBaseAligned = true := by
  have h := c.legal
  simp only [Params.wf, Bool.and_eq_true] at h
  tauto

theorem Config.rowPeriod_ne_zero (c : Config) : c.rowPeriod ≠ 0 := by
  simpa [Params.rowPeriodPositive] using (Config.parts c).2.2.1

theorem Config.rxCap_cases (c : Config) : c.rxCap = 32 ∨ c.rxCap = 64 := by
  simpa [Params.rxCapLegal] using (Config.parts c).2.2.2.1

theorem Config.rxCap_le (c : Config) : c.rxCap ≤ 64 := by
  rcases Config.rxCap_cases c with h | h <;> omega

/-- Some effective dwell is nonzero (00_scope.md R8). -/
theorem Config.some_dwell (c : Config) : ∃ k : Fin 8, dwell c k (k == 0) ≠ 0 := by
  have h := (Config.parts c).2.1
  simp only [Params.someDwell, Bool.or_eq_true, bne_iff_ne, ne_eq, List.any_eq_true] at h
  rcases h with h | ⟨d, hd, hne⟩
  · exact ⟨0, by rw [show ((0 : Fin 8) == 0) = true from rfl, dwell_of_wrapped]; exact h⟩
  · obtain ⟨i, hi, rfl⟩ := List.mem_iff_getElem.mp hd
    simp only [List.length_tail, Vector.length_toList] at hi
    refine ⟨⟨i + 1, by omega⟩, ?_⟩
    rw [show ((⟨i + 1, by omega⟩ : Fin 8) == 0) = false by
      rw [beq_eq_false_iff_ne]; intro h; exact absurd (congrArg Fin.val h) (by simp), dwell_of_not_wrapped]
    simpa using hne

theorem cellIndex_injective {r r' : Fin 3} {p p' : Fin 9} (h : cellIndex r p = cellIndex r' p') : r = r' ∧ p = p' := by
  have := congrArg Fin.val h
  simp only [cellIndex] at this
  exact ⟨Fin.ext (by omega), Fin.ext (by omega)⟩

/-- P_MAP is injective (00_scope.md R7). -/
theorem mappedIndex_injective (c : Config) {k k' : Fin 25} (h : mappedIndex c k = mappedIndex c k') : k = k' := by
  have hnd : c.map.toList.Nodup := by simpa [Params.mapInjective] using (Config.parts c).1
  obtain ⟨h1, h2⟩ := cellIndex_injective h
  have hc : c.map[k] = c.map[k'] := Prod.ext h1 h2
  have hl : c.map.toList[k.val]'(by simp) = c.map.toList[k'.val]'(by simp) := by simpa using hc
  exact Fin.ext ((List.Nodup.getElem_inj_iff hnd).mp hl)

theorem logicalOf_mappedIndex (c : Config) (k : Fin 25) : logicalOf c (mappedIndex c k) = some k := by
  cases h : logicalOf c (mappedIndex c k) with
  | none =>
    have := List.find?_eq_none.mp h k (List.mem_finRange k)
    simp at this
  | some k' =>
    have e : mappedIndex c k' = mappedIndex c k := by simpa using List.find?_some h
    rw [mappedIndex_injective c e]

theorem logicalOf_of_unmapped (c : Config) (q : Fin 27) (h : ∀ k, mappedIndex c k ≠ q) : logicalOf c q = none := by
  refine List.find?_eq_none.mpr fun k _ => ?_
  simpa using h k

/-- The writes of LED_SUBMIT leave a cell that no logical cell maps to. -/
theorem getElem_mapImage_of_unmapped (c : Config) (img : Vector Byte 25) (p : Vector Byte 27) (q : Fin 27)
    (h : ∀ k, mappedIndex c k ≠ q) : (mapImage c img p)[q] = p[q] := by
  simp [mapImage, logicalOf_of_unmapped c q h]

/-- The writes of LED_SUBMIT put every logical cell's intensity at its physical cell (40_led.md R86). -/
theorem getElem_mapImage_mapped (c : Config) (img : Vector Byte 25) (p : Vector Byte 27) (k : Fin 25) :
    (mapImage c img p)[mappedIndex c k] = img[k] := by
  simp [mapImage, logicalOf_mappedIndex]

/-- The pending buffer after LED_SUBMIT is what its 25 writes, made in order, leave (40_led.md R86). -/
theorem mapImage_eq_writes (c : Config) (img : Vector Byte 25) (p : Vector Byte 27) :
    mapImage c img p = (List.finRange 25).foldl (fun b k => b.set (mappedIndex c k).val img[k]) p := by
  have written : ∀ (k : Fin 25) (l : List (Fin 25)) (b : Vector Byte 27),
      (k ∈ l ∨ b[mappedIndex c k] = img[k]) →
      (l.foldl (fun b k => b.set (mappedIndex c k).val img[k]) b)[mappedIndex c k] = img[k] := by
    intro k l
    induction l with
    | nil => intro b h; simpa using h
    | cons k' l ih =>
      intro b h
      rw [List.foldl_cons]
      apply ih
      by_cases hk : k' = k
      · subst hk; exact .inr (Vector.getElem_set_self _)
      · rcases h with h | h
        · exact .inl (by simpa [Ne.symm hk] using h)
        · refine .inr ?_
          rw [← h]
          exact Vector.getElem_set_ne _ _ fun e => hk (mappedIndex_injective c (Fin.ext e))
  have kept : ∀ (q : Fin 27), (∀ k, mappedIndex c k ≠ q) → ∀ (l : List (Fin 25)) (b : Vector Byte 27),
      (l.foldl (fun b k => b.set (mappedIndex c k).val img[k]) b)[q] = b[q] := by
    intro q hq l
    induction l with
    | nil => intro b; rfl
    | cons k l ih =>
      intro b
      rw [List.foldl_cons, ih]
      exact Vector.getElem_set_ne _ _ fun e => hq k (Fin.ext e)
  apply Vector.ext
  intro q hlt
  by_cases h : ∃ k, mappedIndex c k = ⟨q, hlt⟩
  · obtain ⟨k, hk⟩ := h
    have h1 := getElem_mapImage_mapped c img p k
    have h2 := written k (List.finRange 25) p (.inl (List.mem_finRange k))
    obtain rfl : q = (mappedIndex c k).val := by rw [hk]
    exact h1.trans h2.symm
  · have hn : ∀ k, mappedIndex c k ≠ ⟨q, hlt⟩ := fun k e => h ⟨k, e⟩
    exact (getElem_mapImage_of_unmapped c img p _ hn).trans (kept _ hn _ p).symm

end Sys2Proof.Machine
end

