-- ==== Sys2Proof/Laws/PerInstr.lean ====
section
/-! SUPPORT. A statement for every command, one lemma for each constructor: the encoder's word matches the command's row
of spec/opcode_table.json. -/

namespace Sys2Proof.Laws.MatchesRow

/-- The word of the command, under its row's mask, is its row's pattern (30_encoding.md R73). -/
def Statement (i : Instr) : Prop := encode i &&& tableMask i = tableMatch i

theorem ledSubmit : Statement .ledSubmit := rfl

theorem ledClear : Statement .ledClear := rfl

theorem ledStep : Statement .ledStep := rfl

theorem radioConfigure (group : Byte) : Statement (.radioConfigure group) := by
  show encode (.radioConfigure group) &&& 0xFFFFFF00 = 0x10000000
  revert group
  decide

theorem radioStartRx : Statement .radioStartRx := rfl

theorem radioReceive : Statement .radioReceive := rfl

theorem errClear : Statement .errClear := rfl

end Sys2Proof.Laws.MatchesRow
end

