-- ==== Sys2Proof/Tests/Slice0.lean ====
section
/-! SUPPORT. The model's own tests: the words of the encoding, the checks of a configuration, one step at a time against
the vectors of spec/95_test_vectors.md, and a witness of the hypotheses of each statement. -/

set_option maxRecDepth 20000

namespace Sys2Proof.Machine

/-! ## States the tests start from -/

/-- The configuration of the test vectors: the values of 00_scope.md R6, with B = 0x75626974 and P_ROW_PERIOD = 100. -/
def testParams : Params where
  map := defaultMap
  dwell := sourceDwell
  wrapDelay := none
  rowPeriod := 100
  rxCap := 32
  rxCopyAdj := 0
  baseAddr := 0x75626974
  crcPoly := 0x11021
  crcInit := 0xFFFF
  whiteIv := 0x18
  txPower := 0
  freq := 0
  timerHz := 0
  blockBase := 0x40000000
  rowPol := .activeHigh
  colPol := .activeLow
  irqPrio := #v[0, 1, 2]
  resetSources := [1]

def testConfig : Config := { toParams := testParams, legal := by decide }

/-- The machine right after reset under that configuration. -/
def idle : State := State.resetWith testConfig

/-- After RX3: group 7, armed. -/
def armed : State := { idle with radioConfigured := true, radioGroup := 7, radioRx := true, intenEnd := true }

/-- After RX6: the frame [4, 1, 7, 1, 0x2A] is complete. -/
def complete : State :=
  { armed with
    radioRx := false, radioEnd := true, radioCrcok := true
    rxbuf := (((((idle.rxbuf.set 0 4).set 1 1).set 2 7).set 3 1).set 4 0x2A) }

/-- After RX15: HALTED by a RADIO_CONFIGURE while armed. -/
def haltedState : State := { armed with err := 15, halted := true }

/-- Row 2 in row-cycle mode with an update pending, as L6. -/
def atLastRow : State := { idle with mode := .rowCycle, row := 2, pendingUpdate := true, pending := idle.pending.set 3 9 }

/-- Row 2 at mask 0x80 in bit-plane mode with an update pending. -/
def atLastPlane : State := { idle with mask := 0x80, row := 2, pendingUpdate := true, pending := idle.pending.set 3 9 }

/-- The sequencer enabled with its first expiry one tick away, as L15. -/
def running : State := { idle with ledEn := true, timerArmed := true, timerRem := 1 }

def goodFrame : Frame := { base := 0x75626974, addrPrefix := 7, declared := 4, rest := [1, 7, 1, 0x2A], crcOk := true }

def badFrame : Frame := { base := 0x75626974, addrPrefix := 7, declared := 3, rest := [0xEE, 0xEE, 0xEE], crcOk := false }

/-- RX11's frame of 40 bytes: 255, then 1 to 39. -/
def longFrame : Frame :=
  { base := 0x75626974, addrPrefix := 7, declared := 255, rest := (List.range 39).map fun i => BitVec.ofNat 8 (i + 1)
    crcOk := true }

/-- What a reader sees of an outcome's next state. -/
def seen {α : Type} (o : StepOutcome) (view : State → α) : Option α := (stateOf o).map view

/-- The host's 32-bit write at an offset, and its read. -/
def w32 (off : Offset) (v : Word) : Event := .host (.write .bits32 off v)

def r32 (off : Offset) : Event := .host (.read .bits32 off)

/-! ## Decoding: words written out from 30_encoding.md R71 to R73 -/

theorem test_decode_led_submit : decode 0b00000001_000000000000000000000000#32 = .ok .ledSubmit := by decide
theorem test_decode_led_clear : decode 0b00000010_000000000000000000000000#32 = .ok .ledClear := by decide
theorem test_decode_led_step : decode 0b00000011_000000000000000000000000#32 = .ok .ledStep := by decide
theorem test_decode_radio_configure :
    decode 0b00010000_0000000000000000_10100101#32 = .ok (.radioConfigure 0b10100101#8) := by decide
theorem test_decode_radio_start_rx : decode 0b00010001_000000000000000000000000#32 = .ok .radioStartRx := by decide
theorem test_decode_radio_receive : decode 0b00010010_000000000000000000000000#32 = .ok .radioReceive := by decide
theorem test_decode_err_clear : decode 0b00100000_000000000000000000000000#32 = .ok .errClear := by decide

/-- The rows of the opcode map, as the spec writes them: match and mask (30_encoding.md R73). -/
def opcodeRows : List (Word × Word) := [
  (0x01000000, 0xFFFFFFFF), (0x02000000, 0xFFFFFFFF), (0x03000000, 0xFFFFFFFF), (0x10000000, 0xFFFFFF00),
  (0x11000000, 0xFFFFFFFF), (0x12000000, 0xFFFFFFFF), (0x20000000, 0xFFFFFFFF)]

theorem test_rows_do_not_overlap :
    opcodeRows.Pairwise fun a b => a.1 &&& (a.2 &&& b.2) ≠ b.1 &&& (a.2 &&& b.2) := by decide

/-- Vectors K1 and K2. -/
theorem test_illegal_words :
    [0x00000000, 0x04000000, 0x0F000000, 0x13000000, 0x1F000000, 0x21000000, 0xFF123456, 0x13000001].map decode =
      List.replicate 8 (.error .illegalOpcode) := by decide

/-- Vectors L20, K4, K5, RX17. -/
theorem test_reserved_words :
    [0x01000001, 0x20000001, 0x11000001, 0x10000107].map decode = List.replicate 4 (.error .reservedArg) := by decide

theorem test_table_word : decodeTableWord 32 0x100000FF = some (.radioConfigure 0xFF) := by decide

/-- A command placed at reset is what the next step runs: L1's LED_STEP. -/
theorem test_placed_led_step : seen (step (State.reset.withFetchWord 32 0x03000000)) statusWord = some 0x08000040 := by
  decide

/-! ## WellFormed: one ill-formed term for each check -/

theorem test_map_not_injective :
    { testParams with map := defaultMap.set 1 (0, 0) }.check = .error .mapNotInjective := by decide
theorem test_every_dwell_zero :
    { testParams with dwell := Vector.replicate 8 0 }.check = .error .everyDwellZero := by decide
/-- `dwell(0, true)` is the override, so P_DWELL[0] alone does not help (00_scope.md R8). -/
theorem test_every_dwell_zero_by_override :
    { testParams with dwell := #v[5, 0, 0, 0, 0, 0, 0, 0], wrapDelay := some 0 }.check = .error .everyDwellZero := by
  decide
theorem test_row_period_zero : { testParams with rowPeriod := 0 }.check = .error .rowPeriodZero := by decide
theorem test_rx_cap_illegal : { testParams with rxCap := 33 }.check = .error .rxCapIllegal := by decide
theorem test_rx_copy_adj_illegal : { testParams with rxCopyAdj := 2 }.check = .error .rxCopyAdjIllegal := by decide
theorem test_block_base_unaligned : { testParams with blockBase := 0x100 }.check = .error .blockBaseUnaligned := by decide

/-- Vector M6. -/
theorem test_accesses_not_admitted :
    accessAdmitted .bits8 0x000 = false ∧ accessAdmitted .bits16 0x004 = false ∧ accessAdmitted .bits32 0x006 = false := by
  decide

/-! ## The LED family -/

/-- L1: LED_STEP from reset. -/
theorem test_led_step_from_reset :
    seen (exec .ledStep idle) (fun t => (statusWord t, t.ledDelay, t.timerRem, linesWord t)) =
      some (0x08000040, 163, 163, 0) := by decide

/-- L4: the column drive of a bit-plane step. -/
theorem test_plane_columns :
    linesWord (State.step1
      { idle with
        mask := 0x10, row := 1, rowAct := #v[false, true, false]
        active := (((idle.active.set 9 0xFF).set 10 0x20).set 17 0x30) }) = 0x00010302 := by decide

/-- L5: the column drive of a row-cycle step. -/
theorem test_binary_columns :
    seen (exec .ledStep
      { idle with mode := .rowCycle, active := (((idle.active.set 9 1).set 10 0x80).set 11 0x07) })
      (fun t => (linesWord t, t.ledDelay)) = some (0x00000702, 100) := by decide

/-- L6: the commit at the row wrap. -/
theorem test_commit_at_row_zero :
    seen (exec .ledStep atLastRow) (fun t => (linesWord t, t.pendingUpdate, readOffset t 0x100)) =
      some (0x00000801, false, 0x09000000) := by decide

/-- L21: the wrap override stops the activation at the wrap. -/
theorem test_wrap_override :
    seen (exec .ledStep { (State.resetWith { toParams := { testParams with wrapDelay := some 40000 }, legal := by decide })
      with mask := 0x80 }) (fun t => (t.mask, t.row, linesWord t, t.timerRem)) = some (0x01, 1, 0x002, 40000) := by decide

/-- L7: LED_SUBMIT through the default table. -/
theorem test_submit :
    seen (exec .ledSubmit { idle with img := (idle.img.set 20 1).set 24 1 })
      (fun t => (readOffset t 0x130, readOffset t 0x134, statusWord t)) = some (0x01000000, 0x00000001, 0x01000002) := by
  decide

/-- L14: LED_CLEAR of row 0 and column 5. -/
theorem test_clear :
    seen (exec .ledClear { idle with rowAct := #v[true, false, false], colAct := idle.colAct.set 5 true }) linesWord =
      some 0 := by decide

/-- L15: the tick at the last count runs the activation; the count only falls before it. -/
theorem test_tick_expires : seen (perform .tick running) (fun t => (t.timerRem, t.mask)) = some (163, 0x08) := by decide
theorem test_tick_counts :
    seen (perform .tick { running with timerRem := 163 }) (fun t => (t.timerRem, t.mask)) = some (162, 0x01) := by decide

/-- M5: CTRL keeps bits 2:0, and the rising edge arms with 1. -/
theorem test_ctrl_write :
    seen (perform (w32 0x008 0xFFFFFFFF) idle) (fun t => (readOffset t 0x008, t.timerArmed, t.timerRem)) =
      some (0x00000007, true, 1) := by decide

/-! ## The radio family -/

/-- RX2. -/
theorem test_configure :
    seen (command 0x10000007 idle) (fun t => (readOffset t 0x018, statusWord t)) = some (7, 0x01000004) := by decide
/-- RX15. -/
theorem test_configure_while_armed :
    seen (command 0x10000009 armed) (fun t => (readOffset t 0x018, statusWord t)) = some (7, 0x01000F0D) := by decide
/-- RX3. -/
theorem test_start_rx :
    seen (command 0x11000000 { idle with radioConfigured := true, radioGroup := 7 })
      (fun t => (statusWord t, readOffset t 0x008)) = some (0x0100000C, 4) := by decide
/-- RX1. -/
theorem test_start_rx_unconfigured :
    seen (command 0x11000000 idle) (fun t => (statusWord t, readOffset t 0x008)) = some (0x01000300, 0) := by decide
/-- RX6. -/
theorem test_good_frame : seen (perform (.frame goodFrame) armed) statusWord = some 0x010000B4 := by decide
/-- RX4 and RX5. -/
theorem test_other_frame :
    seen (perform (.frame { goodFrame with addrPrefix := 8 }) armed) statusWord = some 0x0100000C ∧
    seen (perform (.frame { goodFrame with base := 0x75626975 }) armed) statusWord = some 0x0100000C := by decide
/-- RX8: byte 4 of the frame is not copied. -/
theorem test_receive :
    seen (command 0x12000000 { complete with err := 5 })
      (fun t => (t.rxLen, readOffset t 0x080, readOffset t 0x084, statusWord t)) =
      some (4, 0x01070104, 0, 0x01000524) := by decide
/-- RX9. -/
theorem test_receive_no_frame :
    seen (command 0x12000000 idle) (fun t => (t.rxLen, t.err)) = some (0, 4) := by decide
/-- RX11, the truncation, and RX12's stale bytes left above it. -/
theorem test_truncation :
    seen (perform (.frame longFrame) armed) (fun t => (t.rxbuf[0], t.rxbuf[31], t.rxbuf[32])) = some (255, 31, 0) := by
  decide
theorem test_stale_bytes :
    seen (command 0x12000000 { complete with rxbuf := Vector.ofFn fun i => if i = 0 then 10 else BitVec.ofNat 8 i.val })
      (fun t => (t.rxLen, readOffset t 0x080, readOffset t 0x088)) = some (10, 0x0302010A, 0x00000908) := by decide

/-! ## Errors, registers, reset -/

/-- K3, K4, K8. -/
theorem test_err_clear : seen (command 0x20000000 { idle with err := 4 }) (·.err) = some 0 := by decide
theorem test_err_clear_halted : seen (command 0x20000000 haltedState) statusWord = some 0x01000F0D := by decide

/-- M4: IMG6 keeps its low byte. M9: IMG1 is packed little-endian. -/
theorem test_img6 : seen (perform (w32 0x058 0xFFFFFFAB) idle) (fun t => readOffset t 0x058) = some 0x000000AB := by
  decide
theorem test_img1 :
    seen (perform (w32 0x044 0x44332211) idle) (fun t => (t.img[4], t.img[5], t.img[6], t.img[7])) =
      some (0x11, 0x22, 0x33, 0x44) := by decide

/-- M6: a byte access is a bus error. -/
theorem test_bus_error : perform (.host (.read .bits8 0x004)) idle = .fault .busError := by rfl

/-- Z1, from HALTED. -/
theorem test_reset : seen (perform (.reset .powerOn) haltedState) statusWord = some 0x01000000 := by decide

/-- A platform event outside the set of reset events does nothing (70_reset_and_hazards.md R166). -/
theorem test_other_reset_event : seen (perform (.reset (.platform 2)) haltedState) statusWord = some 0x01000F0D := by decide

/-! ## The host -/

/-- The host takes the radio's interrupt while the line is asserted, and not inside a critical section. -/
theorem test_take_irq :
    seen (perform (.host (.takeIrq .radioFrameComplete)) complete) (·.hostHandlers) = some [.radioFrameComplete] ∧
    seen (perform (.host (.takeIrq .radioFrameComplete)) { complete with hostCritical := true }) (·.hostHandlers) = some [] := by
  decide

/-- A handler gives way to a higher priority only (60_exceptions.md R154; P_IRQ_PRIO here: tick 0, radio 1, button 2). -/
theorem test_handler_priority :
    seen (perform (.host (.takeIrq .buttonEdge))
      { complete with hostHandlers := [.radioFrameComplete], hostRequests := [.buttonEdge] }) (·.hostHandlers) =
      some [.buttonEdge, .radioFrameComplete] ∧
    seen (perform (.host (.takeIrq .realTimeTick))
      { complete with hostHandlers := [.radioFrameComplete], hostRequests := [.realTimeTick] }) (·.hostHandlers) =
      some [.radioFrameComplete] := by decide

/-- From the main program the tick's handler does not start before the radio's of higher priority, though the tick came
first. -/
theorem test_priority_before_occurrence :
    seen (perform (.host (.takeIrq .realTimeTick)) { complete with hostRequests := [.realTimeTick] }) (·.hostHandlers) =
      some [] ∧
    seen (perform (.host (.takeIrq .radioFrameComplete)) { complete with hostRequests := [.realTimeTick] })
      (fun t => (t.hostHandlers, t.hostRequests)) = some ([.radioFrameComplete], [.realTimeTick, .radioFrameComplete]) := by
  decide

/-- With equal priorities the earlier request goes first (60_exceptions.md R154). -/
def evenPriorities : State :=
  State.resetWith { toParams := { testParams with irqPrio := #v[1, 1, 1] }, legal := by decide }

theorem test_occurrence_among_equals :
    seen (perform (.host (.takeIrq .realTimeTick)) { evenPriorities with hostRequests := [.buttonEdge, .realTimeTick] })
      (·.hostHandlers) = some [] ∧
    seen (perform (.host (.takeIrq .buttonEdge)) { evenPriorities with hostRequests := [.buttonEdge, .realTimeTick] })
      (fun t => (t.hostHandlers, t.hostRequests)) = some ([.buttonEdge], [.realTimeTick]) := by decide

/-- A line that rose before a device's request keeps its place before it. -/
theorem test_line_noted_before_request :
    seen (step { complete with agenda := [.request .buttonEdge] }) (·.hostRequests) =
      some [.radioFrameComplete, .buttonEdge] := by decide

/-- The receive sequence of 70_reset_and_hazards.md R171 keeps every duty; without its re-arming it does not. -/
theorem test_receive_sequence_keeps_duties : hostDutiesKept (hostOps (receiveSequence 4)) = true := by decide
theorem test_dropped_rearm_breaks_a_duty :
    rearmKept false (hostOps (criticalEvents (radioTakeLines 4))) = false := by decide

/-- P2's handler, which tests RADIO_END first, keeps every duty; the test before its fence does not (20_memory.md R65),
whether or not the host says that its read of STATUS is one, nor does a lone test without a fence. -/
theorem test_tested_receive_keeps_duties : hostDutiesKept (hostOps (testedReceiveSequence 4)) = true := by decide
theorem test_unfenced_test_breaks_a_duty :
    fencesKept none [.testEnd, .fence, rawWrite 0x000 0x12000000] = false ∧
    fencesKept none [rawRead 0x004, .fence, rawWrite 0x000 0x12000000] = false ∧
    fencesKept none [rawRead 0x004, rawWrite 0x000 0x12000000] = false ∧ fencesKept none [.testEnd] = false := by decide

/-- The lost update of 70_reset_and_hazards.md R181: the main program's write follows a read of CTRL from before a handler's
own read and write. With its read in the section of its write it is none. -/
theorem test_lost_ctrl_update_breaks_a_duty :
    let handler : List HostOp := [.takeIrq .radioFrameComplete, .beginCritical, rawRead 0x008, rawWrite 0x008 5, .endCritical,
      .returnFromIrq]
    ctrlKept .idle [] ([.beginCritical, rawRead 0x008, .endCritical] ++ handler ++
      [.beginCritical, rawWrite 0x008 1, .endCritical]) = false ∧
    hostDutiesKept (handler ++ [.beginCritical, rawRead 0x008, rawWrite 0x008 1, .endCritical]) = true := by decide

/-- A section that writes an image by its seven words and submits it. -/
def submitSection : List HostOp := hostOps (criticalEvents (submitLines (Vector.replicate 25 1)))

/-- The mixture of 70_reset_and_hazards.md R169: after a handler's image, a section that writes IMG0 alone submits six words
of another section. Sections that write all seven words submit none, and the words that nothing wrote since reset are no
mixture. -/
theorem test_mixed_image_breaks_a_duty :
    let handler : List HostOp := [.takeIrq .radioFrameComplete] ++ submitSection ++ [.returnFromIrq]
    let firstWord : List HostOp := [.beginCritical, rawWrite 0x040 1, rawWrite 0x000 0x01000000, .endCritical]
    hostDutiesKept (submitSection ++ handler ++ firstWord) = false ∧
    hostDutiesKept (submitSection ++ handler ++ submitSection) = true ∧ hostDutiesKept firstWord = true := by decide

/-- RX_LEN is read before the receiver is armed again (70_reset_and_hazards.md R171). -/
theorem test_late_length_breaks_a_duty :
    takingKept false [rawWrite 0x000 0x12000000, rawRead 0x01C, rawWrite 0x000 0x11000000] = true ∧
    takingKept false [rawWrite 0x000 0x12000000, rawWrite 0x000 0x11000000, rawRead 0x01C] = false := by decide

/-- A bus error while HALTED too (log 16). -/
theorem test_bus_error_halted : perform (.host (.write .bits8 0x004 0)) haltedState = .fault .busError := by rfl

/-- The boot sequence of 70_reset_and_hazards.md R168, in one critical section, keeps every duty. -/
theorem test_boot_keeps_duties :
    hostDutiesKept (hostOps (criticalEvents (bootLines none (some (Vector.replicate 25 0)) 7 0 4))) = true := by decide

/-! ## Witnesses: for each statement with hypotheses, states and operands that meet them, at the edges of each clause -/

/-- The state with one event on its agenda. -/
def next (e : Event) (s : State) : State := { s with agenda := [e] }

/-- IllegalOpcodeIsRecorded: both halves, and the edges of each range of R75. -/
theorem test_witness_illegal_opcode :
    ([0x00, 0x04, 0x0F, 0x13, 0x1F, 0x21, 0xFF].all fun op : Byte =>
      !([0x01, 0x02, 0x03, 0x10, 0x11, 0x12, 0x20] : List Byte).contains op) = true ∧
    opField 0x04FFFFFF = 0x04 ∧ idle.halted = false ∧ haltedState.halted = true := by decide

/-- ReservedArgumentIsRecorded: both forms. -/
theorem test_witness_reserved_argument :
    ((0x01000001#32).extractLsb' 24 8 ∈ [0x01#8, 0x02#8, 0x03#8, 0x11#8, 0x12#8, 0x20#8] ∧
      (0x01000001#32).extractLsb' 0 24 ≠ 0) ∧
    ((0x20800000#32).extractLsb' 24 8 ∈ [0x01#8, 0x02#8, 0x03#8, 0x11#8, 0x12#8, 0x20#8] ∧
      (0x20800000#32).extractLsb' 0 24 ≠ 0) ∧
    ((0x10000100#32).extractLsb' 24 8 = 0x10#8 ∧ (0x10000100#32).extractLsb' 8 16 ≠ 0) ∧
    ((0x10800000#32).extractLsb' 24 8 = 0x10#8 ∧ (0x10800000#32).extractLsb' 8 16 ≠ 0) := by decide

/-- EveryWordHasOneOutcome: each of its three outcomes, with both forms of a legal word. -/
theorem test_witness_word_outcomes :
    decode 0x03000000 = .ok .ledStep ∧ encode .ledStep = 0x03000000 ∧ decode 0x100000FF = .ok (.radioConfigure 0xFF) ∧
      encode (.radioConfigure 0xFF) = 0x100000FF ∧ decode 0x00000000 = .error .illegalOpcode ∧
      decode 0x03000001 = .error .reservedArg := by decide

/-- RegisterOffsetsRoundTrip: the last register and a reserved offset, both word-aligned. -/
theorem test_witness_register_offsets :
    (0x138#9).toNat % 4 = 0 ∧ regAt 0x138 = some (.pending 6) ∧ (0x13C#9).toNat % 4 = 0 ∧ regAt 0x13C = none := by decide

/-- StepRunsDecodedCommand. -/
theorem test_witness_step_runs :
    (next (w32 0x000 0x10000007) idle).agenda = .host (.write .bits32 0x000 0x10000007) :: [] ∧
      decode 0x10000007 = .ok (.radioConfigure 7) := ⟨rfl, by decide⟩

/-- PlacedCommandRunsNext. -/
theorem test_witness_placed : decodeTableWord 32 0x10000007 = some (.radioConfigure 7) := by decide

/-- The invariants hold in the states of these tests (for OnlyBusErrorsStopTheMachine and StepKeepsInvariants). -/
theorem test_witness_invariants_idle : idle.Inv := by decide
theorem test_witness_invariants_complete : complete.Inv := by decide
theorem test_witness_invariants_halted : haltedState.Inv := by decide
theorem test_witness_invariants_running : running.Inv := by decide

/-- StepKeepsConfiguration, StepKeepsInvariants: a step that answers next, from a state with the invariants. -/
theorem test_witness_step_answers :
    (next .tick running).Inv ∧ ∃ t, step (next .tick running) = .next t := ⟨by decide, _, rfl⟩

/-- OnlyBusErrorsStopTheMachine: a step that faults. -/
theorem test_witness_step_faults :
    (next (.host (.read .bits32 0x006)) idle).Inv ∧ step (next (.host (.read .bits32 0x006)) idle) = .fault .busError ∧
      step (next (.host (.write .bits16 0x004 0)) idle) = .fault .busError := ⟨by decide, rfl, rfl⟩

/-- SubmitMapsImageToPending, ClearDarkensEveryLine, ErrClearClearsError: running and HALTED. -/
theorem test_witness_halted_or_not : idle.halted = false ∧ haltedState.halted = true := ⟨rfl, rfl⟩

/-- SubmitMapsImageToPending: a cell that no logical cell maps to. -/
theorem test_witness_unmapped_cell : ∀ k : Fin 25, testConfig.map[k] ≠ ((1 : Fin 3), (8 : Fin 9)) := by decide

/-- LedStepRunsOneActivation: each mode, at the first and the last mask. -/
theorem test_witness_led_step :
    idle.halted = false ∧ oneHot idle.mask = true ∧ oneHot atLastPlane.mask = true ∧
      ({ atLastRow with mask := 0 } : State).mode = .rowCycle := by decide

/-- LedStepStopsOnBrokenMask: no bit, and two bits. -/
theorem test_witness_broken_mask :
    idle.halted = false ∧ idle.mode = .bitPlane ∧ oneHot ({ idle with mask := 0 } : State).mask = false ∧
      oneHot ({ idle with mask := 0x81 } : State).mask = false := by decide

/-- LedStepFrame: both modes answer next. -/
theorem test_witness_led_step_answers :
    (∃ t, exec .ledStep idle = .next t) ∧ atLastRow.mode = .rowCycle ∧ ∃ t, exec .ledStep atLastRow = .next t :=
  ⟨⟨_, rfl⟩, rfl, _, rfl⟩

/-- RowCycleStep: with the commit, and without it for either reason. -/
theorem test_witness_row_cycle :
    (atLastRow.mode = .rowCycle ∧ atLastRow.row + 1 = 0 ∧ atLastRow.pendingUpdate = true ∧ atLastRow.RowLinesSound ∧
      atLastRow.halted = false) ∧
    ({ atLastRow with row := 1 } : State).row + 1 ≠ 0 ∧ ({ atLastRow with pendingUpdate := false } : State).pendingUpdate = false := by
  decide

/-- BitPlaneStep: without the wrap, and with it, with the commit and without. -/
theorem test_witness_bit_plane :
    (idle.mode = .bitPlane ∧ idle.mask.rotateLeft 1 ≠ 0x01) ∧
    (atLastPlane.mode = .bitPlane ∧ atLastPlane.mask.rotateLeft 1 = 0x01 ∧ atLastPlane.row + 1 = 0 ∧
      atLastPlane.pendingUpdate = true) ∧
    ({ atLastPlane with row := 0 } : State).row + 1 ≠ 0 ∧ idle.mask.rotateLeft 1 = 1#8 <<< (1 : Fin 8).val ∧
    atLastPlane.mask.rotateLeft 1 = 1#8 <<< (0 : Fin 8).val := by decide

/-- BitPlaneDelay, BitPlaneFullScan: the first plane and the last, the first row and the last. -/
theorem test_witness_planes :
    (idle.mode = .bitPlane ∧ idle.mask = 1#8 <<< (0 : Fin 8).val ∧ idle.row = 0 ∧ idle.UnmappedDark) ∧
    (atLastPlane.mode = .bitPlane ∧ atLastPlane.mask = 1#8 <<< (7 : Fin 8).val ∧ atLastPlane.row = 2) ∧
    testConfig.dwell = #v[0, 0, 0, 163, 351, 726, 1476, 2976] ∧ testConfig.wrapDelay = none := by decide
theorem test_witness_full_scan_submits :
    idle.halted = false ∧ (∃ t, exec .ledSubmit idle = .next t) ∧ ∃ t, exec .ledSubmit atLastPlane = .next t :=
  ⟨rfl, ⟨_, rfl⟩, _, rfl⟩

/-- RowCycleFullScan: the first row and the last. -/
theorem test_witness_row_cycle_scan :
    (atLastRow.halted = false ∧ atLastRow.mode = .rowCycle ∧ ∃ t, exec .ledSubmit atLastRow = .next t) ∧
    ∃ t, exec .ledSubmit { atLastRow with row := 0 } = .next t := ⟨⟨rfl, rfl, _, rfl⟩, _, rfl⟩

/-- ActiveChangesOnlyAtRowZero: a step that changes the active buffer, in each mode. -/
theorem test_witness_active_changes :
    atLastRow.step1.active ≠ atLastRow.active ∧ atLastPlane.step1.active ≠ atLastPlane.active := by decide

/-- WhatChangesTheDisplay: each of its changes happens. -/
theorem test_witness_display_changes :
    (∃ t, perform .tick running = .next t ∧ t.mask ≠ running.mask) ∧
    (∃ t, perform (commandEvent 0x03000000) atLastRow = .next t ∧ t.row ≠ atLastRow.row ∧ t.active ≠ atLastRow.active ∧
      t.rowAct ≠ atLastRow.rowAct ∧ t.colAct ≠ atLastRow.colAct) ∧
    (∃ t, perform (commandEvent 0x02000000) { idle with colAct := Vector.replicate 9 true } = .next t ∧
      t.colAct ≠ Vector.replicate 9 true) ∧
    (∃ t, perform (commandEvent 0x01000000) { idle with img := Vector.replicate 25 1 } = .next t ∧
      t.pending ≠ idle.pending) ∧
    ∃ t, perform (.reset .powerOn) atLastRow = .next t ∧ t.pending ≠ atLastRow.pending :=
  ⟨⟨_, rfl, by decide⟩, ⟨_, rfl, by decide⟩, ⟨_, rfl, by decide⟩, ⟨_, rfl, by decide⟩, _, rfl, by decide⟩

/-- PendingUpdateSetBySubmitClearedByCommit: set by a SUBMIT, cleared by a commit, cleared by a reset. -/
theorem test_witness_pending_update :
    (issues (commandEvent 0x01000000) .ledSubmit ∧ idle.pendingUpdate = false ∧
      ∃ t, perform (commandEvent 0x01000000) idle = .next t ∧ t.pendingUpdate = true) ∧
    (∃ t, perform (commandEvent 0x03000000) atLastRow = .next t ∧ atLastRow.pendingUpdate = true ∧
      t.pendingUpdate = false ∧ t.active ≠ atLastRow.active) ∧
    ∃ t, perform (.reset (.platform 1)) atLastRow = .next t ∧ t.pendingUpdate = false :=
  ⟨⟨⟨_, rfl, by decide⟩, rfl, _, rfl, rfl⟩, ⟨_, rfl, rfl, by decide, by decide⟩, _, rfl, rfl⟩

/-- TickCountsDownToActivation: the counts 0, 1 and 2, and each reason for a tick to do nothing. -/
theorem test_witness_tick :
    (running.halted = false ∧ running.ledEn = true ∧ running.timerArmed = true) ∧
    running.timerRem.toNat ≤ 1 ∧ ({ running with timerRem := 0 } : State).timerRem.toNat ≤ 1 ∧
    1 < ({ running with timerRem := 2 } : State).timerRem.toNat ∧ idle.ledEn = false ∧ haltedState.halted = true ∧
    ({ running with timerArmed := false } : State).timerArmed = false := by decide

/-- LedEnRisingEdgeArmsTimer, LedEnFallingEdgeDisarmsTimer, CtrlWriteWithoutEdge: each mode bit of the value written. -/
theorem test_witness_led_en_edges :
    (idle.halted = false ∧ idle.ledEn = false ∧ (1#32).getLsbD 0 = true ∧ (7#32).getLsbD 0 = true) ∧
    (running.halted = false ∧ running.ledEn = true ∧ (0#32).getLsbD 0 = false ∧ (6#32).getLsbD 0 = false) ∧
    (6#32).getLsbD 0 = idle.ledEn ∧ (5#32).getLsbD 0 = running.ledEn := by decide

/-- ZeroDwellPlanesNeverStay: an activation from each end of the mask, and a cell of value 7 and of value 0. -/
theorem test_witness_zero_dwell :
    (idle.mode = .bitPlane ∧ idle.cfg.dwell = #v[0, 0, 0, 163, 351, 726, 1476, 2976] ∧ idle.cfg.wrapDelay = none ∧
      idle.halted = false ∧ ∃ t, exec .ledStep { idle with active := Vector.replicate 27 7 } = .next t ∧
        cell t.active t.row 0 &&& 0xF8 = 0) ∧
    ∃ t, exec .ledStep atLastPlane = .next t ∧ cell t.active t.row 8 &&& 0xF8 = 0 :=
  ⟨⟨rfl, rfl, rfl, rfl, _, rfl, by decide⟩, _, rfl, by decide⟩

/-- ConfigureSetsGroupOrHalts: HALTED, disabled, with a completed frame, armed. -/
theorem test_witness_configure :
    haltedState.halted = true ∧ (idle.halted = false ∧ idle.radioRx = false) ∧
      (complete.halted = false ∧ complete.radioRx = false) ∧ armed.halted = false ∧ armed.radioRx = true := by decide

/-- StartRxArmsReceiver: unconfigured, over a frame, disabled, already armed. -/
theorem test_witness_start_rx :
    (idle.halted = false ∧ idle.radioConfigured = false) ∧
    (complete.halted = false ∧ complete.radioConfigured = true ∧ complete.radioEnd = true) ∧
    (armed.halted = false ∧ armed.radioConfigured = true ∧ armed.radioEnd = false) := by decide

/-- ReceiveTakesFrame: no frame, a corrupt frame, a good one, with the copy length below and at the capacity. -/
theorem test_witness_receive :
    (idle.halted = false ∧ idle.radioEnd = false) ∧
    (({ complete with radioCrcok := false } : State).radioEnd = true ∧ complete.halted = false) ∧
    (complete.radioEnd = true ∧ complete.radioCrcok = true) ∧
    copyLength testConfig 0 = 0 ∧ copyLength testConfig 31 = 31 ∧ copyLength testConfig 32 = 32 ∧
    copyLength testConfig 33 = 32 ∧ copyLength testConfig 255 = 32 := by decide

/-- The shortest frame, one of exactly P_RX_CAP bytes and one of a byte more are accepted frames too. -/
theorem test_witness_frame_lengths :
    (List.map (fun n => ({ longFrame with rest := longFrame.rest.take n } : Frame).bytes.length) [0, 31, 32]) = [1, 32, 33] ∧
    ([0, 31, 32].all fun n => frameMatches armed.cfg armed.radioGroup { longFrame with rest := longFrame.rest.take n }) ∧
    armed.cfg.rxCap = 32 := by decide

/-- FrameDelivery, CorruptFrameIsDropped, DeliveredFrameReachesHost: a frame that fits and one that does not, another
base, another prefix, a receiver that is not armed. -/
theorem test_witness_frame :
    (armed.halted = false ∧ armed.radioRx = true ∧ goodFrame.base = armed.cfg.baseAddr ∧
      goodFrame.addrPrefix = armed.radioGroup ∧ goodFrame.crcOk = true) ∧
    (badFrame.base = armed.cfg.baseAddr ∧ badFrame.addrPrefix = armed.radioGroup ∧ badFrame.crcOk = false) ∧
    (goodFrame.bytes.length = 5 ∧ longFrame.bytes.length = 40 ∧ longFrame.base = armed.cfg.baseAddr ∧
      longFrame.addrPrefix = armed.radioGroup) ∧
    ({ goodFrame with base := 0x75626975 } : Frame).base ≠ armed.cfg.baseAddr ∧
    ({ goodFrame with addrPrefix := 8 } : Frame).addrPrefix ≠ armed.radioGroup ∧
    haltedState.halted = true ∧ complete.radioRx = false := by decide

/-- NoAutomaticRearm: a delivery, an arming, a refused arming, a frame taken. -/
theorem test_witness_no_rearm :
    (∃ t, perform (.frame goodFrame) armed = .next t ∧ t ≠ armed) ∧
    (∃ t, perform (commandEvent 0x11000000) { idle with radioConfigured := true } = .next t ∧ idle.radioRx = false ∧
      t.radioRx = true) ∧
    (complete.radioEnd = true ∧ complete.radioRx = false ∧ ∃ t, exec .radioStartRx complete = .next t) ∧
    ∃ t, perform (commandEvent 0x12000000) complete = .next t ∧ complete.radioEnd = true ∧ t.radioEnd = false :=
  ⟨⟨_, rfl, fun h => absurd (congrArg State.radioEnd h) (by decide)⟩, ⟨_, rfl, rfl, rfl⟩, ⟨rfl, rfl, _, rfl⟩, _, rfl, rfl,
    rfl⟩

/-- OnlyConfigureWritesGroup: by RADIO_CONFIGURE and by reset. -/
theorem test_witness_group_changes :
    (∃ t, perform (commandEvent 0x10000007) idle = .next t ∧ t.radioGroup ≠ idle.radioGroup) ∧
    ∃ t, perform (.reset .powerOn) armed = .next t ∧ t.radioGroup ≠ armed.radioGroup :=
  ⟨⟨_, rfl, by decide⟩, _, rfl, by decide⟩

/-- WhatChangesReceiveStorage: each of its changes happens. -/
theorem test_witness_receive_storage :
    (∃ t, perform (.frame goodFrame) armed = .next t ∧ t.rxbuf ≠ armed.rxbuf ∧ t.radioCrcok ≠ armed.radioCrcok) ∧
    (∃ t, perform (commandEvent 0x12000000) complete = .next t ∧ t.rxdata ≠ complete.rxdata ∧ t.rxLen ≠ complete.rxLen) ∧
    ∃ t, perform (.reset .powerOn) complete = .next t ∧ t.rxbuf ≠ complete.rxbuf :=
  ⟨⟨_, rfl, by decide⟩, ⟨_, rfl, by decide⟩, _, rfl, by decide⟩

/-- ListeningIsKept: armed and with a completed frame; a tick and a frame. -/
theorem test_witness_listening :
    armed.Listening ∧ complete.Listening ∧ armed.intenEnd = true ∧ complete.radioEnd = true ∧
    (∃ t, perform .tick armed = .next t) ∧ ∃ t, perform (.frame goodFrame) armed = .next t :=
  ⟨by decide, by decide, rfl, rfl, ⟨_, rfl⟩, _, rfl⟩

/-- OnlyErrorsChangeErr: each of its five changes happens. -/
theorem test_witness_err_changes :
    (∃ t, exec .errClear { idle with err := 4 } = .next t ∧ t.err ≠ 4) ∧
    (∃ t, exec (.radioConfigure 9) armed = .next t ∧ t.err ≠ armed.err) ∧
    (∃ t, exec .radioStartRx idle = .next t ∧ t.err ≠ idle.err) ∧
    (∃ t, exec .radioStartRx complete = .next t ∧ t.err ≠ complete.err) ∧
    ∃ t, exec .radioReceive idle = .next t ∧ t.err ≠ idle.err :=
  ⟨⟨_, rfl, by decide⟩, ⟨_, rfl, by decide⟩, ⟨_, rfl, by decide⟩, ⟨_, rfl, by decide⟩, _, rfl, by decide⟩

/-- HaltFreezesTheBlock, HaltedWindowIgnoresWrites: the halting command; an event and an access while HALTED. -/
theorem test_witness_halt :
    (∃ t, perform (commandEvent 0x10000009) armed = .next t ∧ armed.halted = false ∧ t.halted = true) ∧
    (∃ t, perform .tick haltedState = .next t ∧ haltedState.halted = true ∧ ¬resets .tick haltedState) ∧
    (0x1FC#9).toNat % 4 = 0 :=
  ⟨⟨_, rfl, rfl, rfl⟩, ⟨_, rfl, rfl, fun ⟨_, h, _⟩ => nomatch h⟩, by decide⟩

/-- BusErrorExactlyWhereNotAdmitted, ReservedOffsetsReadZero, ReadsHaveNoSideEffect: aligned and not; reserved. -/
theorem test_witness_accesses :
    (0x1FC#9).toNat % 4 = 0 ∧ (0x1FD#9).toNat % 4 ≠ 0 ∧ (0x004#9).toNat % 4 = 0 ∧
      ([0x020, 0x03C, 0x05C, 0x0C0, 0x11C, 0x13C, 0x1FC].map regAt) = List.replicate 7 none := by decide
theorem test_witness_reserved_offset : ∀ r : Reg, (0x1FC#9) ≠ r.offset := by
  intro r
  cases r with
  | cmd | status | ctrl | ledDelay | timerRem | lines | radioGroup | rxLen => decide
  | img j => revert j; decide
  | rxdata j => revert j; decide
  | active j => revert j; decide
  | pending j => revert j; decide

/-- LinesAndPlainRegisters: the premise on RX_LEN, with nothing received and with the whole buffer received. -/
theorem test_witness_receive_sound :
    idle.ReceiveSound ∧ ({ idle with rxLen := 32 } : State).ReceiveSound := by decide

/-- ResetSetsEveryField: power-on, a platform event of the set, one outside it. -/
theorem test_witness_reset_events :
    resetsBlock haltedState.cfg .powerOn = true ∧ resetsBlock haltedState.cfg (.platform 1) = true ∧
      resetsBlock haltedState.cfg (.platform 2) = false := by decide

/-- IllegalConfigurationsAreRefused: a legal configuration at each choice of R9. -/
theorem test_witness_legal_configurations :
    testParams.wf = true ∧ { testParams with rxCap := 64, rxCopyAdj := 1, wrapDelay := some 40000 }.wf = true := by decide

/-- TakingAnInterruptChangesNoBlockState: each of its clauses, the last for the radio and for a device. -/
theorem test_witness_interrupts :
    ({ complete with hostCritical := true } : State).hostCritical = true ∧ idle.irqRadioEnd = false ∧
    (complete.hostHandlers = [] ∧ complete.hostCritical = false ∧ complete.requests = [.radioFrameComplete]) ∧
    ({ idle with hostRequests := [.realTimeTick] } : State).requests = [.realTimeTick] := by decide

/-- HandlersStartByPriorityAndOccurrence: a handler that starts in the main program and one that interrupts another; a
request that waits and one that does not; the line newly asserted. -/
theorem test_witness_handlers_start :
    (∃ t, perform (.host (.takeIrq .radioFrameComplete)) complete = .next t ∧ t.hostHandlers ≠ complete.hostHandlers) ∧
    (∃ t, perform (.host (.takeIrq .buttonEdge))
      { complete with hostHandlers := [.radioFrameComplete], hostRequests := [.buttonEdge] } = .next t ∧
      t.hostHandlers ≠ [.radioFrameComplete]) ∧
    (complete.hostCritical = false ∧ IrqSource.radioFrameComplete ∈ complete.requests ∧
      .radioFrameComplete ∉ complete.hostHandlers ∧ complete.hostHandlers.head? = none) ∧
    (.buttonEdge ∉ complete.requests ∧ .buttonEdge ∈ ({ complete with hostRequests := [.buttonEdge] } : State).requests) ∧
    .radioFrameComplete ∉ complete.hostRequests ∧ complete.irqRadioEnd = true :=
  ⟨⟨_, rfl, by decide⟩, ⟨_, rfl, by decide⟩, by decide, by decide, by decide⟩

/-- The invariants with requests waiting and a handler running (StepKeepsInvariants). -/
theorem test_witness_invariants_requests :
    ({ complete with hostHandlers := [.radioFrameComplete], hostRequests := [.radioFrameComplete, .realTimeTick] } : State).Inv := by
  decide

end Sys2Proof.Machine
end

