-- ==== Sys2Proof/Proofs/Registers.lean ====
section
/-! PROOF. The register map as accesses see it: every register has one word-aligned offset, an access at that offset
reaches that register and no other, and a word is its four bytes (10_state.md R37, 20_memory.md R54, R57). -/

namespace Sys2Proof

/-! ## Offsets -/

theorem Reg.offset_toNat_mod_four (r : Reg) : r.offset.toNat % 4 = 0 := by
  cases r with
  | img j => revert j; decide
  | rxdata j => revert j; decide
  | active j => revert j; decide
  | pending j => revert j; decide
  | _ => rfl

/-- The decoder of offsets is a left inverse of the register map. -/
@[simp] theorem regAt_offset (r : Reg) : regAt r.offset = some r := by
  cases r with
  | img j => revert j; decide
  | rxdata j => revert j; decide
  | active j => revert j; decide
  | pending j => revert j; decide
  | _ => rfl

/-- The register that word `n` of the window is lies at offset 4·n; the window has 128 words. -/
theorem Reg.offset_toNat_of_regOfWord : ∀ n < 128, ∀ r ∈ regOfWord n, r.offset.toNat = 4 * n := by decide

/-- At a word-aligned offset the decoder finds only the register that lies there. -/
theorem eq_offset_of_regAt {off : Offset} {r : Reg} (ha : off.toNat % 4 = 0) (h : regAt off = some r) :
    off = r.offset := by
  have hr := Reg.offset_toNat_of_regOfWord (off.toNat / 4) (by omega) r h
  exact BitVec.eq_of_toNat_eq (by omega)

end Sys2Proof

namespace Sys2Proof.Machine

/-! ## Accesses -/

@[simp] theorem readOffset_offset (s : State) (r : Reg) : readOffset s r.offset = readReg s r := by
  simp [readOffset]

@[simp] theorem writeOffset_offset (s : State) (r : Reg) (v : Word) : writeOffset r.offset v s = writeReg r v s := by
  simp [writeOffset]

/-- The host's write at a register's offset is admitted and writes that register. -/
theorem perform_write_offset (s : State) (r : Reg) (v : Word) :
    perform (.host (.write .bits32 r.offset v)) s = writeReg r v s := by
  have ha : accessAdmitted .bits32 r.offset = true := accessAdmitted_iff.mpr ⟨rfl, r.offset_toNat_mod_four⟩
  simp [perform, hostStep, ha]

/-- An event that issues a command performs that command. -/
theorem perform_of_issues {e : Event} {i : Instr} (h : issues e i) (s : State) : perform e s = exec i s := by
  obtain ⟨w, rfl, hw⟩ := h
  calc perform (commandEvent w) s
    _ = command w s := perform_write_offset s .cmd w
    _ = exec i s := by simp [command, hw]

/-! ## Words by their bytes -/

/-- A bit of a word is a bit of the byte that it lies in. -/
theorem getLsbD_eq_byteOf (v : Word) (k : Nat) : v.getLsbD k = (byteOf v (k / 8)).getLsbD (k % 8) := by
  simp [byteOf, Nat.mod_lt, Nat.div_add_mod]

theorem eq_of_byteOf_eq {v w : Word} (h : ∀ i < 4, byteOf v i = byteOf w i) : v = w := by
  apply BitVec.eq_of_getLsbD_eq
  intro k hk
  rw [getLsbD_eq_byteOf v, getLsbD_eq_byteOf w, h (k / 8) (by omega)]

/-- The mask 0xFF keeps byte 0 and clears the others. -/
theorem byteOf_and_0xFF (v : Word) {i : Nat} (h : i < 4) :
    byteOf (v &&& 0xFF) i = if i = 0 then byteOf v i else 0 := by
  have byteOf_and : byteOf (v &&& 0xFF) i = byteOf v i &&& byteOf 0xFF i := BitVec.extractLsb'_and
  rw [byteOf_and]
  obtain rfl | hi := Nat.eq_zero_or_pos i
  · exact BitVec.and_allOnes
  · have clear : byteOf 0xFF i = 0 := by
      obtain rfl | rfl | rfl : i = 1 ∨ i = 2 ∨ i = 3 := by omega
      all_goals rfl
    rw [clear, if_neg (by omega)]
    exact BitVec.and_zero

/-- A word written to IMGj reads back, its bytes past the 25 of the image as 0 (10_state.md R46). -/
theorem byteOf_packWord_storeImgWord (j : Fin 7) (v : Word) (img : Vector Byte 25) {i : Nat} (h : i < 4) :
    byteOf (packWord (storeImgWord j v img) j) i = if 4 * j.val + i < 25 then byteOf v i else 0 := by
  rw [byteOf_packWord _ _ _ h]
  split
  · next hk =>
    rw [Vector.getElem?_eq_getElem hk, Option.getD_some, getElem_storeImgWord, if_pos (by omega),
      show (4 * j.val + i) % 4 = i by omega]
  · next hk => rw [Vector.getElem?_eq_none (by omega), Option.getD_none]

/-- IMG6 holds one byte of the image, every other IMG word four. -/
theorem packWord_storeImgWord (j : Fin 7) (v : Word) (img : Vector Byte 25) :
    packWord (storeImgWord j v img) j = if j = 6 then v &&& 0xFF else v := by
  apply eq_of_byteOf_eq
  intro i hi
  rw [byteOf_packWord_storeImgWord j v img hi]
  by_cases hj : j = 6
  · subst hj
    rw [if_pos rfl, byteOf_and_0xFF v hi]
    exact if_congr (show 24 + i < 25 ↔ i = 0 by omega) rfl rfl
  · rw [if_neg hj, if_pos (by omega)]

end Sys2Proof.Machine
end

