-- ==== Sys2Proof/Proofs/Effects.lean ====
section
/-! PROOF. What any event can do, said once by the operation it runs, and what an activation can do to the state and to
the pair of buffers. -/

namespace Sys2Proof.Machine

/-! ## Commands and events by the operation they run -/

/-- The operation by which a command answers its next state. -/
inductive ExecEffect (s : State) : Instr → State → Prop where
  | ignored {i : Instr} (hs : s.halted = true) : ExecEffect s i s
  | ledSubmit (hs : s.halted = false) : ExecEffect s .ledSubmit s.submit
  | ledClear (hs : s.halted = false) : ExecEffect s .ledClear s.clearLines
  | ledStep {t : State} (hs : s.halted = false) (ha : s.activation = some t) : ExecEffect s .ledStep t
  | radioConfigure {group : Byte} (hs : s.halted = false) :
      ExecEffect s (.radioConfigure group) (s.configureRadio group)
  | radioStartRx (hs : s.halted = false) : ExecEffect s .radioStartRx s.startReceive
  | radioReceive (hs : s.halted = false) : ExecEffect s .radioReceive s.receive
  | errClear (hs : s.halted = false) : ExecEffect s .errClear s.clearErr

theorem execEffect_of_exec {i : Instr} {s t : State} (h : exec i s = .next t) : ExecEffect s i t := by
  obtain ⟨hs, rfl⟩ | ⟨hs, ht⟩ := exec_next_cases h
  · exact .ignored hs
  · cases i with
    | ledSubmit => cases ht; exact .ledSubmit hs
    | ledClear => cases ht; exact .ledClear hs
    | ledStep => exact .ledStep hs ht
    | radioConfigure group => cases ht; exact .radioConfigure hs
    | radioStartRx => cases ht; exact .radioStartRx hs
    | radioReceive => cases ht; exact .radioReceive hs
    | errClear => cases ht; exact .errClear hs

/-- Nothing but the host's own fields may differ (log 6, log 7). -/
def State.SameBlock (s t : State) : Prop :=
  t = { s with
        hostHandlers := t.hostHandlers
        hostRequests := t.hostRequests
        hostCritical := t.hostCritical
        hostData := t.hostData }

theorem State.SameBlock.refl (s : State) : s.SameBlock s := rfl

/-- The operation on the block by which an event answers its next state. An act that reaches no register, an ignored
write and an ignored reset event are `hostOnly`. -/
inductive EventEffect (s : State) : Event → State → Prop where
  | command {e : Event} {i : Instr} {t : State} (he : issues e i) (hx : ExecEffect s i t) : EventEffect s e t
  | badWord {w : Word} {err : DecodeError} (hw : decode w = .error err) (hs : s.halted = false) :
      EventEffect s (commandEvent w) (s.raiseErr (decodeErrCode err))
  | writeCtrl (v : Word) : EventEffect s (.host (.write .bits32 Reg.ctrl.offset v)) (s.writeCtrl v)
  | writeImg (j : Fin 7) (v : Word) :
      EventEffect s (.host (.write .bits32 (Reg.img j).offset v)) (s.writeImg j v)
  | tick {t : State} (ht : s.tick = .next t) : EventEffect s .tick t
  | frame (f : Frame) : EventEffect s (.frame f) (s.deliver f)
  | reset {src : ResetSource} (hr : resetsBlock s.cfg src = true) : EventEffect s (.reset src) s.resetBlock
  | hostOnly {e : Event} {t : State} (hb : s.SameBlock t) : EventEffect s e t

theorem eventEffect_of_write {off : Offset} {v : Word} {s t : State} (ha : off.toNat % 4 = 0)
    (h : writeOffset off v s = .next t) : EventEffect s (.host (.write .bits32 off v)) t := by
  obtain ⟨hr, hc⟩ | ⟨hr, rfl⟩ | ⟨j, hr, rfl⟩ | rfl := writeOffset_next_cases h
  · obtain rfl := eq_offset_of_regAt ha hr
    obtain ⟨i, hw, he⟩ | ⟨err, hw, he⟩ := command_cases v s
    · exact .command ⟨v, rfl, hw⟩ (execEffect_of_exec (he ▸ hc))
    · obtain ⟨-, rfl⟩ | ⟨hs, ht⟩ := unlessHalted_next_cases (he ▸ hc)
      · exact .hostOnly (.refl t)
      · exact Host.Outcome.next.inj ht ▸ .badWord hw hs
  · exact eq_offset_of_regAt ha hr ▸ .writeCtrl v
  · exact eq_offset_of_regAt ha hr ▸ .writeImg j v
  · exact .hostOnly (.refl t)

theorem State.sameBlock_takeIrq (s : State) (src : IrqSource) : s.SameBlock (s.takeIrq src) := by
  obtain h | ⟨-, -, -, h⟩ := s.takeIrq_cases src <;> rw [h] <;> rfl

theorem State.sameBlock_returnFromIrq (s : State) : s.SameBlock s.returnFromIrq := by
  obtain ⟨-, h⟩ | ⟨-, h⟩ := s.returnFromIrq_cases <;> rw [h] <;> rfl

theorem State.sameBlock_request (s : State) (src : IrqSource) : s.SameBlock (s.request src) := by
  obtain h | ⟨-, -, h⟩ := s.request_cases src <;> rw [h] <;> rfl

/-- Every event that answers a next state has one of the effects. -/
theorem eventEffect_of_perform {e : Event} {s t : State} (h : perform e s = .next t) : EventEffect s e t := by
  obtain ⟨op, rfl, hop⟩ | ⟨rfl, ht⟩ | ⟨f, rfl, rfl⟩ | ⟨src, rfl, rfl⟩ | ⟨src, rfl, rfl⟩ := perform_next_cases h
  · obtain ⟨off, -, -, rfl⟩ | ⟨off, v, rfl, ha, hw⟩ | rfl | rfl | rfl | ⟨src, rfl⟩ | rfl := hostStep_next_cases hop
    · exact .hostOnly rfl
    · exact eventEffect_of_write ha hw
    · exact .hostOnly (.refl t)
    · exact .hostOnly rfl
    · exact .hostOnly rfl
    · exact .hostOnly (s.sameBlock_takeIrq src)
    · exact .hostOnly s.sameBlock_returnFromIrq
  · exact .tick ht
  · exact .frame f
  · obtain ⟨hr, hs⟩ | ⟨-, hs⟩ := s.resetEvent_cases src <;> rw [hs]
    · exact .reset hr
    · exact .hostOnly (.refl s)
  · exact .hostOnly (s.sameBlock_request src)

/-! ## What each operation may change: every field not named stands -/

theorem State.writeCtrl_frame (s : State) (v : Word) :
    ∃ ledEn mode intenEnd timerArmed timerRem,
      s.writeCtrl v = { s with ledEn := ledEn, mode := mode, intenEnd := intenEnd, timerArmed := timerArmed,
                               timerRem := timerRem } := by
  obtain ⟨-, h⟩ | ⟨-, h⟩ := s.writeCtrl_cases v <;> exact ⟨_, _, _, _, _, h⟩

theorem State.writeImg_frame (s : State) (j : Fin 7) (v : Word) : ∃ img, s.writeImg j v = { s with img := img } := by
  obtain ⟨-, h⟩ | ⟨-, h⟩ := s.writeImg_cases j v <;> exact ⟨_, h⟩

theorem State.configureRadio_frame (s : State) (g : Byte) :
    ∃ err halted radioConfigured radioGroup, (radioGroup = s.radioGroup ∨ radioGroup = g) ∧
      s.configureRadio g = { s with err := err, halted := halted, radioConfigured := radioConfigured,
                                    radioGroup := radioGroup } := by
  obtain ⟨-, h⟩ | ⟨-, h⟩ := s.configureRadio_cases g
  · exact ⟨_, _, _, _, .inl rfl, h⟩
  · exact ⟨_, _, _, _, .inr rfl, h⟩

theorem State.startReceive_frame (s : State) :
    ∃ err radioRx intenEnd,
      s.startReceive = { s with err := err, radioRx := radioRx, intenEnd := intenEnd } := by
  obtain ⟨-, h⟩ | ⟨-, -, h⟩ | ⟨-, -, h⟩ := s.startReceive_cases <;> exact ⟨_, _, _, h⟩

theorem State.receive_frame (s : State) :
    ∃ err radioEnd rxdata rxLen,
      s.receive = { s with err := err, radioEnd := radioEnd, rxdata := rxdata, rxLen := rxLen } := by
  obtain ⟨-, h⟩ | ⟨-, -, h⟩ | ⟨-, -, h⟩ := s.receive_cases <;> exact ⟨_, _, _, _, h⟩

theorem State.deliver_frame (s : State) (f : Frame) :
    ∃ rxbuf radioCrcok radioEnd radioRx,
      s.deliver f = { s with rxbuf := rxbuf, radioCrcok := radioCrcok, radioEnd := radioEnd, radioRx := radioRx } := by
  obtain h | ⟨-, -, -, -, h⟩ := s.deliver_cases f <;> exact ⟨_, _, _, _, h⟩

/-! ## What an activation changes -/

/-- Only the cursor, the lines, the active buffer and the update flag may differ: what the sequencer's steps change. -/
def State.SameButSequencer (s t : State) : Prop :=
  t = { s with
        row := t.row
        mask := t.mask
        rowAct := t.rowAct
        colAct := t.colAct
        active := t.active
        pendingUpdate := t.pendingUpdate }

theorem State.sameButSequencer_steps (n : Nat) (s : State) : s.SameButSequencer (State.steps n s) := by
  refine State.steps_keep (P := s.SameButSequencer) (fun u hu => ?_) n rfl
  obtain ⟨row, mask, rowAct, colAct, active, pendingUpdate, h⟩ := u.step1_frame
  rw [h, hu]
  rfl

/-- An activation changes what the sequencer's steps change, and the timer. -/
theorem State.activation_frame {s t : State} (h : s.activation = some t) :
    t = { s with
          row := t.row
          mask := t.mask
          rowAct := t.rowAct
          colAct := t.colAct
          active := t.active
          pendingUpdate := t.pendingUpdate
          ledDelay := t.ledDelay
          timerArmed := t.timerArmed
          timerRem := t.timerRem } := by
  obtain ⟨k, d, -, -, -, -, rfl⟩ := State.activation_spec h
  rw [show State.steps k s = _ from s.sameButSequencer_steps k]
  rfl

/-! ## The buffers under an activation -/

/-- The active buffer and the update flag stand. -/
def State.SameUpdate (s t : State) : Prop := t.active = s.active ∧ t.pendingUpdate = s.pendingUpdate

/-- The buffers and the update flag stand, or the pending buffer was committed: the only two things that the sequencer
does to them (40_led.md R91, R98). -/
def State.CommitsAtMost (s t : State) : Prop :=
  t.pending = s.pending ∧
    (s.SameUpdate t ∨ (s.pendingUpdate = true ∧ t.active = s.pending ∧ t.pendingUpdate = false))

theorem State.CommitsAtMost.refl (s : State) : s.CommitsAtMost s := ⟨rfl, .inl ⟨rfl, rfl⟩⟩

/-- A commit clears the flag, so no second one follows it. -/
theorem State.CommitsAtMost.trans {s t u : State} (hst : s.CommitsAtMost t) (htu : t.CommitsAtMost u) :
    s.CommitsAtMost u := by
  obtain ⟨hp, hst⟩ := hst
  obtain ⟨hp', htu⟩ := htu
  refine ⟨hp'.trans hp, ?_⟩
  obtain ⟨ha, hu⟩ | ⟨hs, ha, hu⟩ := hst
  · rwa [State.SameUpdate, ha, hu, hp] at htu
  · obtain ⟨ha', hu'⟩ | ⟨ht, -, -⟩ := htu
    · exact .inr ⟨hs, ha'.trans ha, hu'.trans hu⟩
    · exact absurd ht (by simp [hu])

theorem State.commitsAtMost_rowAdvance (s : State) : s.CommitsAtMost s.rowAdvance := by
  rw [State.rowAdvance_eq]
  by_cases h : s.row + 1 = 0 ∧ s.pendingUpdate = true
  · exact ⟨rfl, .inr ⟨h.2, if_pos h, if_pos h⟩⟩
  · exact ⟨rfl, .inl ⟨if_neg h, if_neg h⟩⟩

theorem State.commitsAtMost_step1 (s : State) : s.CommitsAtMost s.step1 := by
  cases hm : s.mode with
  | rowCycle =>
    rw [State.step1_rowCycle hm]
    exact s.commitsAtMost_rowAdvance
  | bitPlane =>
    rw [State.step1_bitPlane hm]
    by_cases hw : rotl8 s.mask = 0x01
    · rw [State.stepBitPlane_of_wrap hw]
      exact s.rotateMask.commitsAtMost_rowAdvance
    · rw [State.stepBitPlane_of_not_wrap hw]
      exact ⟨rfl, .inl ⟨rfl, rfl⟩⟩

theorem State.commitsAtMost_of_activation {s t : State} (h : s.activation = some t) : s.CommitsAtMost t := by
  obtain ⟨k, d, -, -, -, -, rfl⟩ := State.activation_spec h
  exact State.steps_keep (P := s.CommitsAtMost) (fun u hu => hu.trans u.commitsAtMost_step1) k (.refl s)

theorem State.commitsAtMost_of_tick {s t : State} (h : s.tick = .next t) : s.CommitsAtMost t := by
  obtain ⟨-, rfl⟩ | ⟨-, -, rfl⟩ | ⟨-, -, ha⟩ := State.tick_next_cases h
  · exact .refl t
  · exact ⟨rfl, .inl ⟨rfl, rfl⟩⟩
  · exact State.commitsAtMost_of_activation (s := { s with timerArmed := false }) ha

end Sys2Proof.Machine
end

