-- ==== Sys2Proof/Proofs/BuffersAndGroup.lean ====
section
/-! PROOF. Who writes the update flag with the active buffer (10_state.md R21), and who writes the group (R28). -/

namespace Sys2Proof.Machine

/-- What an event does to the active buffer and the update flag. -/
inductive UpdateEffect (s : State) (e : Event) (t : State) : Prop where
  | submit (he : issues e .ledSubmit) (ha : t.active = s.active) (hu : t.pendingUpdate = true)
  | commit (he : activates e) (ha : t.active = s.pending) (hu : t.pendingUpdate = false)
  | reset (he : resets e s) (hu : t.pendingUpdate = false)
  | kept (hs : s.SameUpdate t)

theorem State.CommitsAtMost.updateEffect {s t : State} {e : Event} (hc : s.CommitsAtMost t) (he : activates e) :
    UpdateEffect s e t := by
  obtain ⟨-, hk | ⟨-, ha, hu⟩⟩ := hc
  · exact .kept hk
  · exact .commit he ha hu

theorem updateEffect_of_command {e : Event} {i : Instr} {s t : State} (he : issues e i) (hx : ExecEffect s i t) :
    UpdateEffect s e t := by
  cases hx with
  | ignored => exact .kept ⟨rfl, rfl⟩
  | ledSubmit => exact .submit he rfl rfl
  | ledClear => exact .kept ⟨rfl, rfl⟩
  | ledStep _ ha => exact (State.commitsAtMost_of_activation ha).updateEffect (.inr he)
  | @radioConfigure group =>
    obtain ⟨_, _, _, _, -, hf⟩ := s.configureRadio_frame group
    rw [hf]; exact .kept ⟨rfl, rfl⟩
  | radioStartRx =>
    obtain ⟨_, _, _, hf⟩ := s.startReceive_frame
    rw [hf]; exact .kept ⟨rfl, rfl⟩
  | radioReceive =>
    obtain ⟨_, _, _, _, hf⟩ := s.receive_frame
    rw [hf]; exact .kept ⟨rfl, rfl⟩
  | errClear => exact .kept ⟨rfl, rfl⟩

theorem updateEffect_of_perform {e : Event} {s t : State} (h : perform e s = .next t) : UpdateEffect s e t := by
  cases eventEffect_of_perform h with
  | command he hx => exact updateEffect_of_command he hx
  | badWord => exact .kept ⟨rfl, rfl⟩
  | writeCtrl v =>
    obtain ⟨_, _, _, _, _, hf⟩ := s.writeCtrl_frame v
    rw [hf]; exact .kept ⟨rfl, rfl⟩
  | writeImg j v =>
    obtain ⟨_, hf⟩ := s.writeImg_frame j v
    rw [hf]; exact .kept ⟨rfl, rfl⟩
  | tick ht => exact (State.commitsAtMost_of_tick ht).updateEffect (.inl rfl)
  | frame f =>
    obtain ⟨_, _, _, _, hf⟩ := s.deliver_frame f
    rw [hf]; exact .kept ⟨rfl, rfl⟩
  | reset hr => exact .reset ⟨_, rfl, hr⟩ rfl
  | hostOnly hb => rw [hb]; exact .kept ⟨rfl, rfl⟩

/-- Settles O27, from what each event does to the update flag. -/
theorem pendingUpdateSetBySubmitClearedByCommit : Obligations.PendingUpdateSetBySubmitClearedByCommit := by
  unfold Obligations.PendingUpdateSetBySubmitClearedByCommit
  intro e s t h
  constructor
  · intro he hs
    cases execEffect_of_exec ((perform_of_issues he s).symm.trans h) with
    | ignored hs' => exact absurd hs' (by simp [hs])
    | ledSubmit => rfl
  cases updateEffect_of_perform h with
  | submit he ha hu => exact ⟨fun _ _ => he, by simp [hu], fun hne => absurd ha hne⟩
  | commit he ha hu => exact ⟨by simp [hu], fun _ _ => .inl ⟨he, ha⟩, fun _ => hu⟩
  | reset he hu => exact ⟨by simp [hu], fun _ _ => .inr he, fun _ => hu⟩
  | kept hk =>
    obtain ⟨ha, hu⟩ := hk
    rw [hu]
    exact ⟨fun h0 h1 => by simp [h0] at h1, fun h1 h0 => by simp [h0] at h1, fun hne => absurd ha hne⟩

/-- A command other than RADIO_CONFIGURE leaves the group as it is, and RADIO_CONFIGURE leaves it or sets its own. -/
theorem ExecEffect.radioGroup {i : Instr} {s t : State} (hx : ExecEffect s i t) :
    t.radioGroup = s.radioGroup ∨ i = .radioConfigure t.radioGroup := by
  cases hx with
  | ignored => exact .inl rfl
  | ledSubmit => exact .inl rfl
  | ledClear => exact .inl rfl
  | ledStep _ ha => rw [State.activation_frame ha]; exact .inl rfl
  | @radioConfigure group =>
    obtain ⟨_, _, _, _, hg, hf⟩ := s.configureRadio_frame group
    rw [hf]; exact hg.imp id (congrArg Instr.radioConfigure ·.symm)
  | radioStartRx =>
    obtain ⟨_, _, _, hf⟩ := s.startReceive_frame
    rw [hf]; exact .inl rfl
  | radioReceive =>
    obtain ⟨_, _, _, _, hf⟩ := s.receive_frame
    rw [hf]; exact .inl rfl
  | errClear => exact .inl rfl

theorem radioGroup_of_tick {s t : State} (h : s.tick = .next t) : t.radioGroup = s.radioGroup := by
  obtain ⟨-, rfl⟩ | ⟨-, -, rfl⟩ | ⟨-, -, ha⟩ := State.tick_next_cases h
  · rfl
  · rfl
  · rw [State.activation_frame ha]

/-- Settles O41, from what each event does to the group. -/
theorem onlyConfigureWritesGroup : Obligations.OnlyConfigureWritesGroup := by
  unfold Obligations.OnlyConfigureWritesGroup
  intro e s t h hne
  cases eventEffect_of_perform h with
  | command he hx => exact .inl ⟨_, hx.radioGroup.resolve_left hne ▸ he, rfl⟩
  | badWord => exact absurd rfl hne
  | writeCtrl v =>
    obtain ⟨_, _, _, _, _, hf⟩ := s.writeCtrl_frame v
    rw [hf] at hne; exact absurd rfl hne
  | writeImg j v =>
    obtain ⟨_, hf⟩ := s.writeImg_frame j v
    rw [hf] at hne; exact absurd rfl hne
  | tick ht => exact absurd (radioGroup_of_tick ht) hne
  | frame f =>
    obtain ⟨_, _, _, _, hf⟩ := s.deliver_frame f
    rw [hf] at hne; exact absurd rfl hne
  | reset hr => exact .inr ⟨_, rfl, hr⟩
  | hostOnly hb => rw [hb] at hne; exact absurd rfl hne

end Sys2Proof.Machine
end

