-- ==== Sys2Proof/Proofs/ReadBack.lean ====
section
/-! PROOF. What each register reads, and what it reads after a write and after reset (10_state.md R39, R41 to R46). -/

namespace Sys2Proof.Machine

/-- Settles O52: the bytes of an IMG word are those of the image, and a write sets just them. -/
theorem imgWriteReadsBack : Obligations.ImgWriteReadsBack := by
  refine ⟨fun s j i => ?_, fun s j v hs => ⟨storeImgWord j v s.img, ?_, fun k => ?_, ?_⟩, fun c k => ?_⟩
  · rw [readOffset_offset]
    exact byteOf_packWord s.img j i i.isLt
  · obtain ⟨hs', -⟩ | ⟨-, hw⟩ := s.writeImg_cases j v
    · simp [hs] at hs'
    · rw [perform_write_offset, writeReg, hw]
  · exact getElem_storeImgWord j v s.img k k.isLt
  · rw [readOffset_offset]
    exact packWord_storeImgWord j v s.img
  · simp

/-! ## STATUS -/

/-- The single bits of STATUS (10_state.md R39). -/
theorem statusWord_bits (s : State) :
    (statusWord s).getLsbD 0 = s.halted ∧ (statusWord s).getLsbD 1 = s.pendingUpdate ∧
    (statusWord s).getLsbD 2 = s.radioConfigured ∧ (statusWord s).getLsbD 3 = s.radioRx ∧
    (statusWord s).getLsbD 4 = s.radioEnd ∧ (statusWord s).getLsbD 5 = s.radioCrcok ∧
    (statusWord s).getLsbD 6 = s.timerArmed ∧ (statusWord s).getLsbD 7 = s.irqRadioEnd := by
  simp only [statusWord, BitVec.getLsbD_append]
  simp

/-- The wide fields of STATUS and the reserved ranges between them (10_state.md R39). -/
theorem statusWord_fields (s : State) :
    (statusWord s).extractLsb' 8 4 = s.err ∧ (statusWord s).extractLsb' 12 4 = 0 ∧
    (statusWord s).extractLsb' 16 2 = BitVec.ofNat 2 s.row.val ∧ (statusWord s).extractLsb' 18 6 = 0 ∧
    (statusWord s).extractLsb' 24 8 = s.mask := by
  simp (disch := omega) only [statusWord, BitVec.extractLsb'_append_eq_of_le,
    BitVec.extractLsb'_append_eq_of_add_le]
  simp

/-- STATUS after reset: the mask 0x01 and nothing else. -/
theorem statusWord_resetWith (c : Config) : statusWord (State.resetWith c) = 0x01000000 := by
  simp only [statusWord, State.resetWith_fields, State.irqRadioEnd]
  decide

/-- Settles O54: STATUS is at 0x004, reads its fields, and a write to it is ignored. -/
theorem statusFields : Obligations.StatusFields := by
  have hread (s : State) : readOffset s 0x004 = statusWord s := readOffset_offset s .status
  refine ⟨fun s => ?_, fun c => (hread _).trans (statusWord_resetWith c)⟩
  rw [hread]
  obtain ⟨h0, h1, h2, h3, h4, h5, h6, h7⟩ := statusWord_bits s
  obtain ⟨herr, hlow, hrow, hhigh, hmask⟩ := statusWord_fields s
  have hrow3 : (BitVec.ofNat 2 s.row.val).toNat = s.row.val := by
    rw [BitVec.toNat_ofNat]
    omega
  exact ⟨h0, h1, h2, h3, h4, h5, h6, h7, herr, hlow, hrow ▸ hrow3, hhigh, hmask,
    perform_write_offset s .status⟩

/-! ## LINES and the registers that read one field -/

/-- LINES: a bit for each row line and each column line, and reserved ranges (10_state.md R43). -/
theorem linesWord_bits (s : State) :
    (∀ r : Fin 3, (linesWord s).getLsbD r.val = s.rowAct[r]) ∧
    (∀ c : Fin 9, (linesWord s).getLsbD (8 + c.val) = s.colAct[c]) ∧
    (linesWord s).extractLsb' 3 5 = 0 ∧ (linesWord s).extractLsb' 17 15 = 0 := by
  refine ⟨fun r => ?_, fun c => ?_, ?_, ?_⟩
  · simp only [linesWord, BitVec.getLsbD_append, BitVec.getLsbD_ofFnLE]
    simp
  · simp only [linesWord, BitVec.getLsbD_append, BitVec.getLsbD_ofFnLE]
    simp [show ¬(8 + c.val < 3) by omega, show ¬(8 + c.val - 3 < 5) by omega,
      show 8 + c.val - 3 - 5 = c.val by omega]
  · simp (disch := omega) only [linesWord, BitVec.extractLsb'_append_eq_of_le,
      BitVec.extractLsb'_append_eq_of_add_le]
    simp
  · simp (disch := omega) only [linesWord, BitVec.extractLsb'_append_eq_of_le]
    simp

/-- No line is active after reset. -/
theorem linesWord_resetWith (c : Config) : linesWord (State.resetWith c) = 0 := by
  simp only [linesWord, State.resetWith_fields, Fin.getElem_fin, Vector.getElem_replicate]
  decide

/-- Settles O55, register by register. -/
theorem linesAndPlainRegisters : Obligations.LinesAndPlainRegisters := by
  have hlines (s : State) : readOffset s 0x014 = linesWord s := readOffset_offset s .lines
  have hdelay (s : State) : readOffset s 0x00C = s.ledDelay := readOffset_offset s .ledDelay
  have hrem (s : State) : readOffset s 0x010 = s.timerRem := readOffset_offset s .timerRem
  have hgroup (s : State) : readOffset s 0x018 = s.radioGroup.setWidth 32 := readOffset_offset s .radioGroup
  have hlen (s : State) : readOffset s 0x01C = s.rxLen := readOffset_offset s .rxLen
  refine ⟨fun s => ?_, fun c => ?_⟩
  · rw [hlines, hdelay, hrem, hgroup, hlen]
    obtain ⟨hrow, hcol, hlow, hhigh⟩ := linesWord_bits s
    exact ⟨hrow, hcol, hlow, hhigh, rfl, rfl, rfl, rfl, And.left⟩
  · rw [hlines, hdelay, hrem, hgroup, hlen]
    exact ⟨linesWord_resetWith c, rfl, rfl, rfl, rfl⟩

/-! ## Reset -/

theorem perform_reset_of_resets {s : State} {src : ResetSource} (h : resetsBlock s.cfg src = true) :
    perform (.reset src) s = .next s.resetBlock := by
  simp [perform, State.resetEvent, h]

theorem perform_reset_of_not_resets {s : State} {src : ResetSource} (h : resetsBlock s.cfg src = false) :
    perform (.reset src) s = .next s := by
  simp [perform, State.resetEvent, h]

/-- Settles O56: a reset event answers `resetBlock`, whose fields are those of the reset state. -/
theorem resetSetsEveryField : Obligations.ResetSetsEveryField := by
  refine ⟨fun c => ⟨rfl, fun id => ?_⟩, fun s src => perform_reset_of_not_resets, fun s src hr =>
    ⟨s.resetBlock, perform_reset_of_resets hr, ?_⟩⟩
  · simp [resetsBlock]
  · simp [State.irqRadioEnd]

end Sys2Proof.Machine
end

section
/-! PROOF. The host's accesses: which ones are performed, what the others answer, and what a write reaches while HALTED
(20_memory.md R53, R56, R58, R60). -/

namespace Sys2Proof.Machine

/-! ## Why a write can fault -/

theorem unlessHalted_fault {s : State} {o : StepOutcome} {f : Fault} (h : unlessHalted s o = .fault f) :
    s.halted = false ∧ o = .fault f := by
  cases hs : s.halted with
  | true => rw [unlessHalted_halted o hs] at h; cases h
  | false => rw [unlessHalted_running o hs] at h; exact ⟨rfl, h⟩

theorem State.activate_fault {s : State} {f : Fault} (h : s.activate = .fault f) :
    s.activation = none ∧ f = .sequencerStuck := by
  unfold State.activate at h
  split at h
  · cases h
  · next ha => injection h with h; exact ⟨ha, h.symm⟩

/-- LED_STEP alone among the commands can fault, on an activation that is stuck (log 8). -/
theorem exec_fault {i : Instr} {s : State} {f : Fault} (h : exec i s = .fault f) :
    i = .ledStep ∧ s.halted = false ∧ s.activation = none ∧ f = .sequencerStuck := by
  cases i with
  | ledStep =>
    obtain ⟨hs, ho⟩ := unlessHalted_fault h
    exact ⟨rfl, hs, State.activate_fault ho⟩
  | _ => cases (unlessHalted_fault h).2

theorem command_fault {w : Word} {s : State} {f : Fault} (h : command w s = .fault f) : f = .sequencerStuck := by
  obtain ⟨i, -, hc⟩ | ⟨e, -, hc⟩ := command_cases w s <;> rw [hc] at h
  · obtain ⟨-, -, -, hf⟩ := exec_fault h
    exact hf
  · cases (unlessHalted_fault h).2

/-- A write that reaches a register never answers a bus error. -/
theorem writeOffset_fault {off : Offset} {v : Word} {s : State} {f : Fault} (h : writeOffset off v s = .fault f) :
    f = .sequencerStuck := by
  unfold writeOffset at h
  split at h
  · next r _ =>
    cases r with
    | cmd => exact command_fault h
    | _ => cases h
  · cases h

/-! ## Accesses by whether they are admitted -/

theorem perform_read (s : State) {off : Offset} (ha : off.toNat % 4 = 0) :
    perform (.host (.read .bits32 off)) s = .next { s with hostData := readOffset s off } :=
  if_pos (accessAdmitted_iff.mpr ⟨rfl, ha⟩)

theorem perform_write (s : State) {off : Offset} (v : Word) (ha : off.toNat % 4 = 0) :
    perform (.host (.write .bits32 off v)) s = writeOffset off v s :=
  if_pos (accessAdmitted_iff.mpr ⟨rfl, ha⟩)

theorem perform_read_of_not_admitted (s : State) {size : AccessSize} {off : Offset}
    (hn : ¬(size = .bits32 ∧ off.toNat % 4 = 0)) : perform (.host (.read size off)) s = .fault .busError :=
  if_neg (mt accessAdmitted_iff.mp hn)

theorem perform_write_of_not_admitted (s : State) {size : AccessSize} {off : Offset} (v : Word)
    (hn : ¬(size = .bits32 ∧ off.toNat % 4 = 0)) : perform (.host (.write size off v)) s = .fault .busError :=
  if_neg (mt accessAdmitted_iff.mp hn)

/-- Settles O47: an admitted read answers a next state, and an admitted write faults only where LED_STEP does. -/
theorem busErrorExactlyWhereNotAdmitted : Obligations.BusErrorExactlyWhereNotAdmitted := by
  refine fun s size off v =>
    ⟨⟨?_, perform_read_of_not_admitted s⟩, ⟨?_, perform_write_of_not_admitted s v⟩⟩
  · rintro hf ⟨rfl, ha⟩
    rw [perform_read s ha] at hf
    cases hf
  · rintro hf ⟨rfl, ha⟩
    rw [perform_write s v ha] at hf
    cases writeOffset_fault hf

/-- Settles O48, register by register. -/
theorem readOnlyRegistersIgnoreWrites : Obligations.ReadOnlyRegistersIgnoreWrites := by
  refine ⟨fun s v r hr => ?_, fun s => ?_⟩
  · rw [perform_write_offset]
    obtain rfl | rfl | rfl | rfl | rfl | rfl | ⟨j, rfl⟩ | ⟨j, rfl⟩ | ⟨j, rfl⟩ := hr <;> rfl
  · have hcmd : readOffset s 0x000 = 0 := readOffset_offset s .cmd
    rw [perform_read s rfl, hcmd]

/-! ## Reads -/

/-- No register shows the word that the host read last (log 6). -/
theorem readReg_with_hostData (s : State) (w : Word) (r : Reg) : readReg { s with hostData := w } r = readReg s r := by
  cases r <;> rfl

theorem readOffset_with_hostData (s : State) (w : Word) (off : Offset) :
    readOffset { s with hostData := w } off = readOffset s off := by
  unfold readOffset
  cases regAt off with
  | none => rfl
  | some r => exact readReg_with_hostData s w r

/-- Settles O50: the one field that a read changes shows at no offset. -/
theorem readsHaveNoSideEffect : Obligations.ReadsHaveNoSideEffect :=
  fun s _ ha => ⟨_, perform_read s ha, rfl, readOffset_with_hostData s _⟩

/-! ## Writes while HALTED -/

theorem exec_halted (i : Instr) {s : State} (hs : s.halted = true) : exec i s = .next s := by
  cases i <;> exact unlessHalted_halted _ hs

theorem command_halted (w : Word) {s : State} (hs : s.halted = true) : command w s = .next s := by
  obtain ⟨i, -, hc⟩ | ⟨e, -, hc⟩ := command_cases w s <;> rw [hc]
  · exact exec_halted i hs
  · exact unlessHalted_halted _ hs

/-- The three kinds of writable register each ignore a write while HALTED (20_memory.md R60); the others always do. -/
theorem writeReg_halted (r : Reg) (v : Word) {s : State} (hs : s.halted = true) : writeReg r v s = .next s := by
  cases r with
  | cmd => exact command_halted v hs
  | ctrl => exact congrArg _ (if_pos hs)
  | img j => exact congrArg _ (if_pos hs)
  | _ => rfl

theorem writeOffset_halted (off : Offset) (v : Word) {s : State} (hs : s.halted = true) :
    writeOffset off v s = .next s := by
  unfold writeOffset
  cases regAt off with
  | none => rfl
  | some r => exact writeReg_halted r v hs

/-- Settles O51: every register ignores the write, and a read is performed whatever the state. -/
theorem haltedWindowIgnoresWrites : Obligations.HaltedWindowIgnoresWrites :=
  fun s off v hs ha => ⟨(perform_write s v ha).trans (writeOffset_halted off v hs), perform_read s ha⟩

end Sys2Proof.Machine
end

