-- ==== Sys2Proof/Proofs/Encoding.lean ====
section
/-! PROOF. What the decoder answers, by the fields of the word: a legal command, an illegal opcode or a reserved argument
(30_encoding.md R71 to R77). -/

namespace Sys2Proof

/-! ## The fields of a word -/

/-- A bit vector is a concatenation exactly where its high and low parts are. -/
theorem eq_append_iff_extractLsb' {m n : Nat} {x : BitVec (m + n)} {hi : BitVec m} {lo : BitVec n} :
    x = hi ++ lo ↔ x.extractLsb' n m = hi ∧ x.extractLsb' 0 n = lo := by
  constructor
  · rintro rfl
    exact ⟨BitVec.extractLsb'_append_eq_left, BitVec.extractLsb'_append_eq_right⟩
  · rintro ⟨rfl, rfl⟩
    exact BitVec.extractLsb'_append_extractLsb'.symm

theorem eq_encode_iff {w : Word} {i : Instr} : w = encode i ↔ opField w = opcode i ∧ argField w = argument i :=
  eq_append_iff_extractLsb' (m := 8) (n := 24)

/-- The reserved bits of RADIO_CONFIGURE's ARG, as bits of the word. -/
theorem argField_reservedBits (w : Word) : (argField w).extractLsb' 8 16 = w.extractLsb' 8 16 :=
  BitVec.extractLsb'_extractLsb'_of_le (by decide)

/-- RADIO_CONFIGURE's words are those with the OP and the zero reserved bits before the group. -/
theorem encode_radioConfigure (group : Byte) : encode (.radioConfigure group) = 0x100000#24 ++ group := by
  have assoc : (0x10#8 ++ 0#16) ++ group = 0x10#8 ++ (0#16 ++ group) := BitVec.append_assoc
  exact assoc.symm

/-- The mask of RADIO_CONFIGURE's row keeps the 24 high bits. -/
theorem and_0xFFFFFF00 (w : Word) : w &&& 0xFFFFFF00 = w.extractLsb' 8 24 ++ 0#8 := by
  have hw : w.extractLsb' 8 24 ++ w.extractLsb' 0 8 = w := BitVec.extractLsb'_append_extractLsb' (w := 24) (len := 8)
  calc w &&& 0xFFFFFF00
    _ = (w.extractLsb' 8 24 ++ w.extractLsb' 0 8) &&& (BitVec.allOnes 24 ++ 0#8) := by rw [hw]; rfl
    _ = w.extractLsb' 8 24 ++ 0#8 := by rw [BitVec.and_append, BitVec.and_allOnes, BitVec.and_zero]

/-! ## The opcode map -/

/-- The commands without an operand. -/
def plainInstrs : List Instr := [.ledSubmit, .ledClear, .ledStep, .radioStartRx, .radioReceive, .errClear]

/-- The OP values of the commands without an operand (30_encoding.md R73). -/
def plainOpcodes : List Byte := [0x01#8, 0x02#8, 0x03#8, 0x11#8, 0x12#8, 0x20#8]

/-- All the OP values of the map (30_encoding.md R73). -/
def mapOpcodes : List Byte := [0x01#8, 0x02#8, 0x03#8, 0x10#8, 0x11#8, 0x12#8, 0x20#8]

theorem mem_plainInstrs_or_radioConfigure (i : Instr) : i ∈ plainInstrs ∨ ∃ group, i = .radioConfigure group := by
  cases i with
  | radioConfigure group => exact .inr ⟨group, rfl⟩
  | _ => exact .inl (by decide)

theorem mem_plainOpcodes_iff {op : Byte} : op ∈ plainOpcodes ↔ ∃ i ∈ plainInstrs, opcode i = op :=
  List.mem_map (f := opcode) (l := plainInstrs)

theorem mem_mapOpcodes_iff {op : Byte} : op ∈ mapOpcodes ↔ op ∈ plainOpcodes ∨ op = 0x10 := by
  simp only [mapOpcodes, plainOpcodes, List.mem_cons, List.not_mem_nil]
  tauto

theorem argument_of_plain : ∀ i ∈ plainInstrs, argument i = 0 := by decide

/-- The row of a command without an operand fixes every bit of the word. -/
theorem table_of_plain : ∀ i ∈ plainInstrs, tableMask i = BitVec.allOnes 32 ∧ tableMatch i = encode i := by decide

/-! ## The decoder by the OP field -/

theorem decode_of_plain {w : Word} {i : Instr} (hi : i ∈ plainInstrs) (hop : opField w = opcode i) :
    decode w = withoutOperand (argField w) i := by
  simp only [plainInstrs, List.mem_cons, List.not_mem_nil, or_false] at hi
  obtain rfl | rfl | rfl | rfl | rfl | rfl := hi <;> simp [decode, hop, opcode]

theorem decode_of_configure {w : Word} (hop : opField w = 0x10) : decode w = withGroup (argField w) := by
  simp [decode, hop]

theorem decode_of_unlisted {w : Word} (hop : opField w ∉ mapOpcodes) : decode w = .error .illegalOpcode := by
  simp only [mapOpcodes, List.mem_cons, List.not_mem_nil, or_false, not_or] at hop
  simp [decode, hop]

/-! ## The three outcomes of a word (30_encoding.md R77) -/

/-- The OP is in the map and every reserved ARG bit is 0. -/
def LegalFields (w : Word) : Prop :=
  opField w ∈ plainOpcodes ∧ argField w = 0 ∨ opField w = 0x10 ∧ w.extractLsb' 8 16 = 0

/-- The OP is in the map and a reserved ARG bit is 1. -/
def ReservedBitSet (w : Word) : Prop :=
  opField w ∈ plainOpcodes ∧ argField w ≠ 0 ∨ opField w = 0x10 ∧ w.extractLsb' 8 16 ≠ 0

theorem fields_cases (w : Word) : LegalFields w ∨ opField w ∉ mapOpcodes ∨ ReservedBitSet w := by
  rw [mem_mapOpcodes_iff, LegalFields, ReservedBitSet]
  tauto

theorem decode_of_legalFields {w : Word} (h : LegalFields w) : ∃ i, decode w = .ok i ∧ w = encode i := by
  obtain ⟨hop, harg⟩ | ⟨hop, hres⟩ := h
  · obtain ⟨i, hi, hopi⟩ := mem_plainOpcodes_iff.mp hop
    refine ⟨i, ?_, eq_encode_iff.mpr ⟨hopi.symm, harg.trans (argument_of_plain i hi).symm⟩⟩
    rw [decode_of_plain hi hopi.symm, withoutOperand, if_pos harg]
  · rw [← argField_reservedBits] at hres
    refine ⟨.radioConfigure ((argField w).extractLsb' 0 8), ?_, eq_encode_iff.mpr ⟨hop, ?_⟩⟩
    · rw [decode_of_configure hop, withGroup, if_pos hres]
    · exact (eq_append_iff_extractLsb' (m := 16) (n := 8)).mpr ⟨hres, rfl⟩

theorem decode_of_reservedBitSet {w : Word} (h : ReservedBitSet w) : decode w = .error .reservedArg := by
  obtain ⟨hop, harg⟩ | ⟨hop, hres⟩ := h
  · obtain ⟨i, hi, hopi⟩ := mem_plainOpcodes_iff.mp hop
    rw [decode_of_plain hi hopi.symm, withoutOperand, if_neg harg]
  · rw [← argField_reservedBits] at hres
    rw [decode_of_configure hop, withGroup, if_neg hres]

theorem decode_encode (i : Instr) : decode (encode i) = .ok i := by
  obtain ⟨hop, harg⟩ := eq_encode_iff.mp (rfl : encode i = encode i)
  obtain hi | ⟨group, rfl⟩ := mem_plainInstrs_or_radioConfigure i
  · rw [decode_of_plain hi hop, withoutOperand, if_pos (harg.trans (argument_of_plain i hi))]
  · obtain ⟨hres, hgroup⟩ := (eq_append_iff_extractLsb' (m := 16) (n := 8)).mp harg
    rw [decode_of_configure hop, withGroup, hgroup]
    exact if_pos hres

/-- A word decodes to a command exactly where it is the command's encoding. -/
theorem decode_eq_ok_iff {w : Word} {i : Instr} : decode w = .ok i ↔ w = encode i := by
  constructor
  · intro h
    obtain hl | hu | hr := fields_cases w
    · obtain ⟨j, hj, hw⟩ := decode_of_legalFields hl
      cases hj.symm.trans h
      exact hw
    · cases (decode_of_unlisted hu).symm.trans h
    · cases (decode_of_reservedBitSet hr).symm.trans h
  · rintro rfl
    exact decode_encode i

/-! ## The rows of the opcode map as masks and patterns -/

theorem decode_eq_ok_iff_of_plain {w : Word} {i : Instr} (hi : i ∈ plainInstrs) :
    decode w = .ok i ↔ w &&& tableMask i = tableMatch i := by
  obtain ⟨hmask, hmatch⟩ := table_of_plain i hi
  rw [decode_eq_ok_iff, hmask, hmatch, BitVec.and_allOnes]

theorem decode_eq_ok_radioConfigure_iff {w : Word} {group : Byte} :
    decode w = .ok (.radioConfigure group) ↔ w &&& 0xFFFFFF00 = 0x10000000 ∧ w.extractLsb' 0 8 = group := by
  have hmatch : (0x10000000 : Word) = 0x100000#24 ++ 0#8 := rfl
  rw [decode_eq_ok_iff, encode_radioConfigure, and_0xFFFFFF00, hmatch, BitVec.append_left_inj]
  exact eq_append_iff_extractLsb' (m := 24) (n := 8)

/-- Settles O2, row by row: seven encodings, and the OP values outside the map. -/
theorem opcodeMapMatchesSpec : Obligations.OpcodeMapMatchesSpec := fun _ =>
  ⟨decode_eq_ok_iff_of_plain (by decide), decode_eq_ok_iff_of_plain (by decide), decode_eq_ok_iff_of_plain (by decide),
    fun _ => decode_eq_ok_radioConfigure_iff, decode_eq_ok_iff_of_plain (by decide),
    decode_eq_ok_iff_of_plain (by decide), decode_eq_ok_iff_of_plain (by decide), decode_of_unlisted⟩

/-- Settles O6: the word's fields say which of the three outcomes it has. -/
theorem everyWordHasOneOutcome : Obligations.EveryWordHasOneOutcome := by
  intro w
  obtain hl | hu | hr := fields_cases w
  · obtain ⟨i, hi, hw⟩ := decode_of_legalFields hl
    refine .inl ⟨hl, i, ⟨hi, hw⟩, ?_⟩
    rintro j ⟨hj, -⟩
    cases hi.symm.trans hj
    rfl
  · exact .inr (.inl ⟨decode_of_unlisted hu, hu⟩)
  · exact .inr (.inr ⟨decode_of_reservedBitSet hr, hr⟩)

/-- The OP values outside the map, as the ranges of 30_encoding.md R75. -/
theorem not_mem_mapOpcodes_iff (op : Byte) :
    op ∉ mapOpcodes ↔ op.toNat = 0x00 ∨ (0x04 ≤ op.toNat ∧ op.toNat ≤ 0x0F) ∨ (0x13 ≤ op.toNat ∧ op.toNat ≤ 0x1F) ∨
      (0x21 ≤ op.toNat ∧ op.toNat ≤ 0xFF) := by
  simp only [mapOpcodes, List.mem_cons, List.not_mem_nil, or_false]
  bv_omega

end Sys2Proof

namespace Sys2Proof.Machine

/-! ## Words that select no command, written to CMD (30_encoding.md R74) -/

/-- A word that does not decode records its error and changes nothing else, unless the block is HALTED. -/
theorem command_of_decode_error {w : Word} {e : DecodeError} {s : State} (hw : decode w = .error e)
    (hs : s.halted = false) : command w s = .next { s with err := (decodeErrCode e).code } := by
  obtain ⟨i, hi, -⟩ | ⟨e', he, hc⟩ := command_cases w s
  · cases hi.symm.trans hw
  · cases he.symm.trans hw
    exact hc.trans (unlessHalted_running _ hs)

/-- Settles O4: the decoder's answer, what a write of the word does, and the ranges of the OP values. -/
theorem illegalOpcodeIsRecorded : Obligations.IllegalOpcodeIsRecorded :=
  ⟨fun w _ hop => ⟨decode_of_unlisted hop, command_of_decode_error (decode_of_unlisted hop), command_halted w⟩,
    not_mem_mapOpcodes_iff⟩

/-- Settles O5: the decoder's answer and what a write of the word does. -/
theorem reservedArgumentIsRecorded : Obligations.ReservedArgumentIsRecorded := fun w _ hr =>
  ⟨decode_of_reservedBitSet hr, command_of_decode_error (decode_of_reservedBitSet hr), command_halted w⟩

end Sys2Proof.Machine
end

