-- ==== Sys2Proof/Proofs/Sequencer.lean ====
section
/-! PROOF. The LED sequencer: its row advance, its steps in each mode, and the activation that LED_STEP and the last
tick of the timer run (40_led.md R88 to R102). -/

namespace Sys2Proof.Machine

/-! ## The row advance -/

/-- `RowAdvance`, said by the row it reaches and the buffer shown from then on (40_led.md R91). -/
theorem State.rowAdvance_spec (s : State) :
    ∃ (r : Fin 3) (a : Vector Byte 27),
      r.val = (s.row.val + 1) % 3 ∧
      (r = 0 ∧ s.pendingUpdate = true → a = s.pending) ∧
      (¬(r = 0 ∧ s.pendingUpdate = true) → a = s.active) ∧
      s.rowAdvance =
        { s with
          row := r
          rowAct := (s.rowAct.set s.row.val false).set r.val true
          colAct := noColumns
          active := a
          pendingUpdate := s.pendingUpdate && r != 0 } := by
  have flag : (if s.row + 1 = 0 ∧ s.pendingUpdate = true then false else s.pendingUpdate) =
      (s.pendingUpdate && s.row + 1 != 0) := by
    by_cases h : s.row + 1 = 0 <;> simp [h]
  refine ⟨s.row + 1, if s.row + 1 = 0 ∧ s.pendingUpdate = true then s.pending else s.active,
    Fin.val_add s.row 1, fun h => if_pos h, fun h => if_neg h, ?_⟩
  rw [State.rowAdvance_eq, flag]

/-- After `RowAdvance` at most the new row's line is active, if at most the old row's was before (40_led.md R91). -/
theorem State.rowLinesSound_rowAdvance {s : State} (h : s.RowLinesSound) : s.rowAdvance.RowLinesSound := by
  intro q hq
  rw [State.rowAdvance_eq] at hq ⊢
  simp only [Fin.getElem_fin, Vector.getElem_set] at hq
  split at hq
  · next hnew => exact Fin.ext hnew.symm
  · split at hq
    · cases hq
    · next hold => exact absurd (congrArg Fin.val (h q hq)).symm hold

/-! ## One step in bit-plane mode -/

theorem rotl8_eq_rotateLeft (m : Byte) : rotl8 m = m.rotateLeft 1 := rfl

/-- The rotation reaches 0x01 only from 0x80 (40_led.md R99). -/
theorem eq_0x80_of_rotl8 {m : Byte} (h : rotl8 m = 0x01) : m = 0x80 := by
  revert m; decide

theorem State.step1_mask_of_bitPlane {s : State} (hm : s.mode = .bitPlane) : s.step1.mask = rotl8 s.mask := by
  rw [State.step1_bitPlane hm]
  by_cases hw : rotl8 s.mask = 0x01
  · rw [State.stepBitPlane_of_wrap hw, State.rowAdvance_eq]; rfl
  · rw [State.stepBitPlane_of_not_wrap hw]

/-- The delay read from a bit-plane state is the dwell of its plane, wrapped exactly on plane 0 (40_led.md R97). -/
theorem State.stepDelay_of_plane {s : State} {p : Fin 8} (hm : s.mode = .bitPlane) (hp : s.mask = 1#8 <<< p.val) :
    s.stepDelay = some (dwell s.cfg p (p == 0)) := by
  have wrapped : (1#8 <<< p.val == 0x01) = (p == 0) := by
    rw [Bool.eq_iff_iff, beq_iff_eq, beq_iff_eq]
    exact shift_eq_one_iff p
  rw [State.stepDelay, hm]
  simp only [hp, ctz8_shift, wrapped, Option.map_some]

/-! ## Several steps -/

theorem State.steps_mode (n : Nat) (s : State) : (State.steps n s).mode = s.mode := by
  rw [s.sameButSequencer_steps n]

theorem State.steps_cfg (n : Nat) (s : State) : (State.steps n s).cfg = s.cfg := by
  rw [s.sameButSequencer_steps n]

/-- Each bit-plane step moves the mask one plane on, modulo 8 (40_led.md R93). -/
theorem State.steps_mask_of_plane (n : Nat) {s : State} {p : Fin 8} (hm : s.mode = .bitPlane)
    (hp : s.mask = 1#8 <<< p.val) : (State.steps n s).mask = 1#8 <<< (p + Fin.ofNat 8 n).val := by
  induction n generalizing s p with
  | zero => simpa [State.steps] using hp
  | succ n ih =>
    have hm' : s.step1.mode = .bitPlane := (s.steps_mode 1).trans hm
    have hp' : s.step1.mask = 1#8 <<< (p + 1).val := by
      rw [State.step1_mask_of_bitPlane hm, hp, rotl8_shift]
    have hplane : p + 1 + Fin.ofNat 8 n = p + Fin.ofNat 8 (n + 1) := by
      apply Fin.ext
      simp only [Fin.val_add, Fin.val_ofNat]
      omega
    rw [State.steps, ih hm' hp', hplane]

/-- From any plane, some number of steps between 1 and 8 lands on any other (40_led.md R101). -/
theorem exists_steps_between_planes (p q : Fin 8) : ∃ n, 1 ≤ n ∧ n ≤ 8 ∧ p + Fin.ofNat 8 n = q := by
  refine ⟨(q - p - 1).val + 1, by omega, by omega, ?_⟩
  revert p q
  decide

/-! ## The activation -/

/-- The first nonzero delay that the steps return is `d`, after `k` of them (40_led.md R100). -/
def State.FirstDelay (s : State) (k : Nat) (d : Word) : Prop :=
  1 ≤ k ∧ (∀ j, 1 ≤ j → j < k → (State.steps j s).stepDelay = some 0) ∧
    (State.steps k s).stepDelay = some d ∧ d ≠ 0

/-- The bounded loop finds the first nonzero delay that lies within its bound. -/
theorem State.FirstDelay.stepUntilDelay {s : State} {k n : Nat} {d : Word} (h : s.FirstDelay k d) (hkn : k ≤ n) :
    s.stepUntilDelay n = some (State.steps k s, d) := by
  induction n generalizing s k with
  | zero =>
    obtain ⟨hk1, -⟩ := h
    omega
  | succ n ih =>
    obtain ⟨hk1, hzero, hd, hne⟩ := h
    match k, hk1 with
    | 1, _ =>
      have hd1 : s.step1.stepDelay = some d := hd
      rw [State.stepUntilDelay, hd1]
      exact if_neg hne
    | k + 2, _ =>
      have hd1 : s.step1.stepDelay = some 0 := hzero 1 le_rfl (by omega)
      have hrest : s.step1.FirstDelay (k + 1) d :=
        ⟨by omega, fun j hj1 hjk => hzero (j + 1) (by omega) (by omega), hd, hne⟩
      rw [State.stepUntilDelay, hd1]
      exact ih hrest (by omega)

/-- An activation ends with the first nonzero delay and arms the timer with it. -/
theorem State.FirstDelay.activate {s : State} {k : Nat} {d : Word} (h : s.FirstDelay k d) (hk8 : k ≤ 8) :
    s.activate = .next ((State.steps k s).armTimer d) := by
  simp [State.activate, State.activation, h.stepUntilDelay hk8]

theorem State.firstDelay_of_rowCycle {s : State} (hm : s.mode = .rowCycle) : s.FirstDelay 1 s.cfg.rowPeriod := by
  refine ⟨le_rfl, fun j hj1 hj => absurd hj1 (by omega), ?_, Config.rowPeriod_ne_zero s.cfg⟩
  rw [State.stepDelay, s.steps_mode, hm, s.steps_cfg]

/-- In bit-plane mode 8 steps pass over every plane, and one plane dwells (40_led.md R101, 00_scope.md R8). -/
theorem State.exists_firstDelay_of_bitPlane {s : State} (hm : s.mode = .bitPlane) (ho : oneHot s.mask = true) :
    ∃ k d, k ≤ 8 ∧ s.FirstDelay k d := by
  obtain ⟨p, hp⟩ := (oneHot_iff s.mask).mp ho
  have hdelay (n : Nat) : (State.steps n s).stepDelay =
      some (dwell s.cfg (p + Fin.ofNat 8 n) (p + Fin.ofNat 8 n == 0)) := by
    rw [State.stepDelay_of_plane ((s.steps_mode n).trans hm) (State.steps_mask_of_plane n hm hp), s.steps_cfg]
  obtain ⟨q, hq⟩ := Config.some_dwell s.cfg
  obtain ⟨n, hn1, hn8, hnq⟩ := exists_steps_between_planes p q
  have hn : (State.steps n s).stepDelay ≠ some 0 := by
    rw [hdelay, hnq]
    exact fun e => hq (Option.some.inj e)
  have hstop : ∃ k, 1 ≤ k ∧ (State.steps k s).stepDelay ≠ some 0 := ⟨n, hn1, hn⟩
  obtain ⟨hk1, hk⟩ := Nat.find_spec hstop
  refine ⟨Nat.find hstop, _, (Nat.find_min' hstop ⟨hn1, hn⟩).trans hn8, hk1,
    fun j hj1 hj => ?_, hdelay _, fun e => ?_⟩
  · exact not_not.mp fun hne => Nat.find_min hstop hj ⟨hj1, hne⟩
  · exact hk ((hdelay _).trans (congrArg some e))

/-- LED_STEP while not HALTED is an activation (40_led.md R88). -/
theorem exec_ledStep {s : State} (hs : s.halted = false) : exec .ledStep s = s.activate :=
  unlessHalted_running _ hs

/-! ## The step timer -/

/-- The timer counts where the block runs, LED_EN = 1 and the timer is armed (40_led.md R102). -/
theorem State.tickEnabled_iff {s : State} :
    s.tickEnabled = true ↔ s.halted = false ∧ s.ledEn = true ∧ s.timerArmed = true := by
  simp [State.tickEnabled, and_assoc]

theorem perform_tick_of_not_enabled {s : State} (he : ¬s.tickEnabled = true) : perform .tick s = .next s :=
  if_neg he

theorem perform_tick_of_counting {s : State} (he : s.tickEnabled = true) (hr : 1 < s.timerRem.toNat) :
    perform .tick s = .next { s with timerRem := s.timerRem - 1 } :=
  (if_pos he).trans (if_neg (by omega))

/-- At the last count a tick disarms the timer and runs the activation of LED_STEP. -/
theorem perform_tick_of_last {s : State} (he : s.tickEnabled = true) (hr : s.timerRem.toNat ≤ 1) :
    perform .tick s = exec .ledStep { s with timerArmed := false } := by
  obtain ⟨hs, -, -⟩ := State.tickEnabled_iff.mp he
  rw [exec_ledStep (s := { s with timerArmed := false }) hs]
  exact (if_pos he).trans (if_pos hr)

/-- The state once `k` ticks have only counted. -/
def State.countedDown (s : State) (k : Nat) : State := { s with timerRem := s.timerRem - BitVec.ofNat 32 k }

theorem State.countedDown_zero (s : State) : s.countedDown 0 = s := by
  rw [State.countedDown, BitVec.sub_zero]

/-- A tick above the last count is one more tick counted. -/
theorem perform_tick_countedDown {s : State} {k : Nat} (he : s.tickEnabled = true) (hk : k + 1 < s.timerRem.toNat) :
    perform .tick (s.countedDown k) = .next (s.countedDown (k + 1)) := by
  have habove : 1 < (s.countedDown k).timerRem.toNat := by
    have hrem : (s.countedDown k).timerRem = s.timerRem - BitVec.ofNat 32 k := rfl
    rw [hrem, BitVec.toNat_sub, BitVec.toNat_ofNat]
    omega
  have hsub : s.timerRem - BitVec.ofNat 32 k - 1 = s.timerRem - BitVec.ofNat 32 (k + 1) := by
    rw [BitVec.ofNat_add, ← BitVec.sub_sub]
    rfl
  rw [perform_tick_of_counting (s := s.countedDown k) he habove, State.countedDown, State.countedDown, ← hsub]

end Sys2Proof.Machine
end

