-- ==== Sys2Proof/Proofs/LedSequencing.lean ====
section
/-! PROOF. The statements about the sequencer: LED_STEP, the steps of the two modes, the ticks and the two edges of
LED_EN (40_led.md R88 to R104). -/

namespace Sys2Proof.Machine

/-! ## LED_STEP and its steps -/

/-- Settles O17: each mode reaches its first nonzero delay within 8 steps, and LED_STEP stops there. -/
theorem ledStepRunsOneActivation : Obligations.LedStepRunsOneActivation := by
  refine ⟨decode_encode .ledStep, fun s => ⟨exec_halted .ledStep, fun hs hmode => ?_⟩⟩
  have hfirst : ∃ k d, k ≤ 8 ∧ s.FirstDelay k d := by
    cases hm : s.mode with
    | rowCycle => exact ⟨1, _, by decide, State.firstDelay_of_rowCycle hm⟩
    | bitPlane => exact State.exists_firstDelay_of_bitPlane hm (hmode.resolve_left (by simp [hm]))
  obtain ⟨k, d, hk8, hf⟩ := hfirst
  have ⟨hk1, hzero, hd, hne⟩ := hf
  exact ⟨k, d, hk1, hk8, hzero, hd, hne, (exec_ledStep hs).trans (hf.activate hk8)⟩

/-- Settles O20: a row-cycle step is a row advance and its column drive, and its delay is never 0. -/
theorem rowCycleStep : Obligations.RowCycleStep := by
  intro s hm
  obtain ⟨r, a, hr, hcommit, hkept, hadv⟩ := s.rowAdvance_spec
  have hstep : s.step1 = s.rowAdvance.driveBinary := State.step1_rowCycle hm
  have hfirst := State.firstDelay_of_rowCycle hm
  have ⟨_, _, hdelay, _⟩ := hfirst
  refine ⟨r, a, hr, hcommit, hkept, by rw [hstep, hadv]; rfl, hdelay, fun hl => ?_, fun hs => ?_⟩
  · rw [hstep]
    exact State.rowLinesSound_rowAdvance hl
  · rw [exec_ledStep hs, hfirst.activate (by decide)]
    rfl

/-- Settles O21, by whether the rotated mask is 0x01. -/
theorem bitPlaneStep : Obligations.BitPlaneStep := by
  intro s hm
  simp only [← rotl8_eq_rotateLeft]
  refine ⟨fun hw => ?_, fun hw => ⟨eq_0x80_of_rotl8 hw, ?_⟩, fun k hk => ?_⟩
  · rw [State.step1_bitPlane hm, State.stepBitPlane_of_not_wrap hw]
    rfl
  · obtain ⟨r, a, hr, hcommit, hkept, hadv⟩ := s.rotateMask.rowAdvance_spec
    refine ⟨r, a, hr, hcommit, hkept, ?_⟩
    rw [State.step1_bitPlane hm, State.stepBitPlane_of_wrap hw, hadv, State.rotateMask, hw]
    rfl
  · have hmask : s.step1.mask = 1#8 <<< k.val := (State.step1_mask_of_bitPlane hm).trans hk
    have hdelay := State.stepDelay_of_plane ((s.steps_mode 1).trans hm) hmask
    rw [s.steps_cfg 1] at hdelay
    exact ⟨hmask, hdelay⟩

/-! ## The timer -/

/-- Settles O28: a tick by what the timer holds, and the ticks before the last one by counting. -/
theorem tickCountsDownToActivation : Obligations.TickCountsDownToActivation := by
  refine fun s => ⟨fun hn => perform_tick_of_not_enabled (mt State.tickEnabled_iff.mp hn), fun hs hl ha => ?_⟩
  have he : s.tickEnabled = true := State.tickEnabled_iff.mpr ⟨hs, hl, ha⟩
  exact ⟨perform_tick_of_counting he, perform_tick_of_last he, fun n hn =>
    ⟨s.countedDown, s.countedDown_zero, fun k hk => perform_tick_countedDown he (by omega), rfl⟩⟩

/-- A CTRL write while not HALTED sets the three fields, and the timer where LED_EN changes (10_state.md R40). -/
theorem perform_write_ctrl {s : State} (v : Word) (hs : s.halted = false) :
    perform (.host (.write .bits32 0x008 v)) s =
      .next { s with
              ledEn := v.getLsbD 0
              mode := modeOfBit (v.getLsbD 1)
              intenEnd := v.getLsbD 2
              timerArmed := if s.ledEn = v.getLsbD 0 then s.timerArmed else v.getLsbD 0
              timerRem := if s.ledEn = v.getLsbD 0 then s.timerRem else if v.getLsbD 0 then 1 else 0 } := by
  obtain ⟨hs', -⟩ | ⟨-, hw⟩ := s.writeCtrl_cases v
  · simp [hs] at hs'
  · rw [← hw]
    exact perform_write_offset s .ctrl v

/-- Settles O29: the rising edge arms the timer with 1, the last count. -/
theorem ledEnRisingEdgeArmsTimer : Obligations.LedEnRisingEdgeArmsTimer := by
  intro s v hs hl hv
  refine ⟨_, rfl, ?_, perform_tick_of_last (State.tickEnabled_iff.mpr ⟨hs, rfl, rfl⟩) le_rfl⟩
  rw [perform_write_ctrl v hs, hv, hl]
  rfl

/-- Settles O30: the falling edge disarms the timer. -/
theorem ledEnFallingEdgeDisarmsTimer : Obligations.LedEnFallingEdgeDisarmsTimer := by
  intro s v hs hl hv
  rw [perform_write_ctrl v hs, hv, hl]
  rfl

end Sys2Proof.Machine
end

