-- ==== Sys2Proof/Proofs/LedBuffers.lean ====
section
/-! PROOF. The statements about LED_SUBMIT and LED_CLEAR: the coordinate table cell by cell, and the lines
(40_led.md R86, R87). -/

namespace Sys2Proof.Machine

/-! ## LED_SUBMIT -/

theorem cell_mapImage_mapped (c : Config) (img : Vector Byte 25) (p : Vector Byte 27) (k : Fin 25) :
    cell (mapImage c img p) c.map[k].1 c.map[k].2 = img[k] :=
  getElem_mapImage_mapped c img p k

theorem cell_mapImage_of_unmapped (c : Config) (img : Vector Byte 25) (p : Vector Byte 27) {pr : Fin 3} {pc : Fin 9}
    (h : ∀ k : Fin 25, c.map[k] ≠ (pr, pc)) : cell (mapImage c img p) pr pc = cell p pr pc := by
  refine getElem_mapImage_of_unmapped c img p (cellIndex pr pc) fun k hk => h k ?_
  obtain ⟨hrow, hcol⟩ := cellIndex_injective hk
  exact Prod.ext hrow hcol

/-- A write to IMG changes the staged image, not what was submitted (40_led.md R86). -/
theorem perform_write_img_pending (s : State) (j : Fin 7) (v : Word) :
    ∃ t : State, perform (.host (.write .bits32 (Reg.img j).offset v)) s = .next t ∧ t.pending = s.pending := by
  refine ⟨s.writeImg j v, perform_write_offset s (.img j) v, ?_⟩
  obtain ⟨img, hf⟩ := s.writeImg_frame j v
  rw [hf]

/-- Settles O15, cell by cell of the pending buffer. -/
theorem submitMapsImageToPending : Obligations.SubmitMapsImageToPending :=
  ⟨decode_encode .ledSubmit, fun s =>
    ⟨exec_halted .ledSubmit,
      fun hs => ⟨mapImage s.cfg s.img s.pending, unlessHalted_running _ hs,
        cell_mapImage_mapped s.cfg s.img s.pending,
        fun _ _ => cell_mapImage_of_unmapped s.cfg s.img s.pending⟩,
      perform_write_img_pending s⟩⟩

/-! ## LED_CLEAR -/

/-- LINES shows the line fields and nothing else. -/
theorem linesWord_congr {s t : State} (hr : s.rowAct = t.rowAct) (hc : s.colAct = t.colAct) :
    linesWord s = linesWord t := by
  rw [linesWord, linesWord, hr, hc]

theorem readOffset_lines_clearLines (s : State) : readOffset s.clearLines 0x014 = 0 := by
  have hlines : readOffset s.clearLines 0x014 = linesWord s.clearLines := readOffset_offset s.clearLines .lines
  have hreset : linesWord s.clearLines = linesWord (State.resetWith s.cfg) := linesWord_congr rfl rfl
  rw [hlines, hreset, linesWord_resetWith]

/-- Settles O16: LED_CLEAR leaves the lines as they are after reset. -/
theorem clearDarkensEveryLine : Obligations.ClearDarkensEveryLine :=
  ⟨decode_encode .ledClear, fun s =>
    ⟨exec_halted .ledClear, fun hs =>
      ⟨s.clearLines, rfl, unlessHalted_running _ hs, readOffset_lines_clearLines s⟩⟩⟩

end Sys2Proof.Machine
end

section
/-! PROOF. The receiver: what its three commands and a frame do, which events change whether it is armed and whether it
holds a frame, and the statements about them (41_radio.md R111 to R121). -/

namespace Sys2Proof.Machine

/-! ## RADIO_CONFIGURE and RADIO_START_RX -/

theorem exec_radioConfigure {s : State} (group : Byte) (hs : s.halted = false) :
    exec (.radioConfigure group) s = .next (s.configureRadio group) :=
  unlessHalted_running _ hs

theorem exec_radioStartRx {s : State} (hs : s.halted = false) : exec .radioStartRx s = .next s.startReceive :=
  unlessHalted_running _ hs

theorem State.configureRadio_of_armed {s : State} (group : Byte) (hrx : s.radioRx = true) :
    s.configureRadio group = { s with err := 15, halted := true } :=
  if_pos hrx

theorem State.configureRadio_of_disarmed {s : State} (group : Byte) (hrx : s.radioRx = false) :
    s.configureRadio group = { s with radioGroup := group, radioConfigured := true } :=
  if_neg (by simp [hrx])

theorem State.startReceive_of_unconfigured {s : State} (hc : s.radioConfigured = false) :
    s.startReceive = { s with err := 3 } :=
  if_pos hc

theorem State.startReceive_of_framePending {s : State} (hc : s.radioConfigured = true) (he : s.radioEnd = true) :
    s.startReceive = { s with err := 5 } :=
  (if_neg (by simp [hc])).trans (if_pos he)

theorem State.startReceive_of_ready {s : State} (hc : s.radioConfigured = true) (he : s.radioEnd = false) :
    s.startReceive = { s with radioRx := true, intenEnd := true } :=
  (if_neg (by simp [hc])).trans (if_neg (by simp [he]))

/-- RADIO_CONFIGURE's word is its OP over the group. -/
theorem encode_radioConfigure_eq_or (group : Byte) :
    encode (.radioConfigure group) = 0x10000000 ||| group.setWidth 32 :=
  (encode_radioConfigure group).trans (BitVec.append_def 0x100000#24 group)

/-- Settles O34: HALTED ignores the command, and the armed receiver decides between the halt and the group. -/
theorem configureSetsGroupOrHalts : Obligations.ConfigureSetsGroupOrHalts := by
  refine ⟨fun group => decode_eq_ok_iff.mpr (encode_radioConfigure_eq_or group).symm,
    fun s group => ⟨exec_halted _, fun hs hrx => ?_, fun hs hrx => ?_⟩⟩
  · rw [exec_radioConfigure group hs, State.configureRadio_of_disarmed group hrx]
  · rw [exec_radioConfigure group hs, State.configureRadio_of_armed group hrx]

/-- Settles O35, in the order of the command's checks. -/
theorem startRxArmsReceiver : Obligations.StartRxArmsReceiver := by
  refine ⟨decode_encode .radioStartRx,
    fun s => ⟨exec_halted _, fun hs hc => ?_, fun hs hc he => ?_, fun hs hc he => ?_⟩⟩
  · rw [exec_radioStartRx hs, State.startReceive_of_unconfigured hc]
  · rw [exec_radioStartRx hs, State.startReceive_of_framePending hc he]
  · rw [exec_radioStartRx hs, State.startReceive_of_ready hc he]

/-! ## RADIO_RECEIVE -/

theorem exec_radioReceive {s : State} (hs : s.halted = false) : exec .radioReceive s = .next s.receive :=
  unlessHalted_running _ hs

theorem State.receive_of_no_frame {s : State} (he : s.radioEnd = false) :
    s.receive = { s with rxLen := 0, err := 4 } :=
  if_pos he

theorem State.receive_of_good_frame {s : State} (he : s.radioEnd = true) (hcrc : s.radioCrcok = true) :
    s.receive = s.takeFrame :=
  (if_neg (by simp [he])).trans (if_pos hcrc)

theorem State.receive_of_corrupt_frame {s : State} (he : s.radioEnd = true) (hcrc : s.radioCrcok = false) :
    s.receive = s.dropFrame :=
  (if_neg (by simp [he])).trans (if_neg (by simp [hcrc]))

/-- The copy length never passes the end of the 64 bytes that the model holds. -/
theorem copyLength_le (c : Config) (declared : Byte) : copyLength c declared ≤ 64 :=
  (Nat.min_le_right _ _).trans (Config.rxCap_le c)

theorem copyFirst_of_lt {n : Nat} (src old : Vector Byte 64) {i : Fin 64} (h : i.val < n) :
    (copyFirst n src old)[i] = src[i] :=
  (getElem_copyFirst n src old i i.isLt).trans (if_pos h)

theorem copyFirst_of_le {n : Nat} (src old : Vector Byte 64) {i : Fin 64} (h : n ≤ i.val) :
    (copyFirst n src old)[i] = old[i] :=
  (getElem_copyFirst n src old i i.isLt).trans (if_neg (Nat.not_lt.mpr h))

/-- Settles O36, by whether a frame is complete and whether it passed its CRC. -/
theorem receiveTakesFrame : Obligations.ReceiveTakesFrame := by
  refine ⟨decode_encode .radioReceive,
    fun s => ⟨exec_halted _, fun hs he => ?_, fun hs he hcrc => ?_, fun hs he hcrc => ?_⟩⟩
  · rw [exec_radioReceive hs, State.receive_of_no_frame he]
  · rw [exec_radioReceive hs, State.receive_of_corrupt_frame he hcrc, State.dropFrame]
  · refine ⟨copyLength s.cfg s.rxbuf[0], copyFirst (copyLength s.cfg s.rxbuf[0]) s.rxbuf s.rxdata, rfl,
      copyLength_le _ _, fun i => copyFirst_of_lt _ _, fun i => copyFirst_of_le _ _, ?_⟩
    rw [exec_radioReceive hs, State.receive_of_good_frame he hcrc, State.takeFrame]

/-! ## A frame -/

/-- The receiver takes the frame: the block runs, it is armed, and the frame has its base address and its group
(41_radio.md R114, R115). -/
def State.Accepts (s : State) (f : Frame) : Prop :=
  s.halted = false ∧ s.radioRx = true ∧ f.base = s.cfg.baseAddr ∧ f.addrPrefix = s.radioGroup

theorem perform_frame_of_accepts {s : State} {f : Frame} (h : s.Accepts f) :
    perform (.frame f) s = .next (s.storeFrame f) := by
  obtain ⟨hs, hrx, hbase, hgroup⟩ := h
  exact congrArg _ (if_pos (by simp [State.frameEnabled, frameMatches, hs, hrx, hbase, hgroup]))

theorem perform_frame_of_not_accepts {s : State} {f : Frame} (h : ¬s.Accepts f) :
    perform (.frame f) s = .next s := by
  obtain hd | ⟨hs, hrx, hbase, hgroup, -⟩ := s.deliver_cases f
  · exact congrArg _ hd
  · exact absurd ⟨hs, hrx, hbase, hgroup⟩ h

/-- A kept byte of the frame is in the buffer. -/
theorem storeBytes_of_lt_length {n : Nat} {b : List Byte} (old : Vector Byte 64) {i : Fin 64} (hn : i.val < n)
    (hb : i.val < b.length) : (storeBytes n b old)[i] = b[i.val] := by
  have hi := getElem_storeBytes n b old i i.isLt
  rw [if_pos hn, List.getElem?_eq_getElem hb] at hi
  exact hi

theorem storeBytes_of_le {n : Nat} (b : List Byte) (old : Vector Byte 64) {i : Fin 64} (h : n ≤ i.val) :
    (storeBytes n b old)[i] = old[i] :=
  (getElem_storeBytes n b old i i.isLt).trans (if_neg (Nat.not_lt.mpr h))

/-- Settles O37: what the receiver accepts it stores byte by byte, and nothing else changes it. -/
theorem frameDelivery : Obligations.FrameDelivery := by
  refine fun s f => ⟨fun hs hrx hbase hgroup => ?_, fun _ _ hother => ?_, fun hoff => ?_⟩
  · refine ⟨storeBytes (keptLength s.cfg f) f.bytes s.rxbuf, fun i hlen hcap => ?_, fun i hpast => ?_,
      perform_frame_of_accepts ⟨hs, hrx, hbase, hgroup⟩⟩
    · exact storeBytes_of_lt_length s.rxbuf (lt_min hlen hcap) hlen
    · exact storeBytes_of_le f.bytes s.rxbuf (min_le_iff.mpr hpast)
  · refine perform_frame_of_not_accepts ?_
    rintro ⟨-, -, hbase, hgroup⟩
    exact hother.elim (· hbase) (· hgroup)
  · refine perform_frame_of_not_accepts ?_
    rintro ⟨hs, hrx, -, -⟩
    simp [hs, hrx] at hoff

/-- Settles O39: the delivery records the failed CRC, and RADIO_RECEIVE then drops the frame. -/
theorem corruptFrameIsDropped : Obligations.CorruptFrameIsDropped := by
  intro s f hs hrx hbase hgroup hcrc
  refine ⟨s.storeFrame f, (s.storeFrame f).dropFrame, perform_frame_of_accepts ⟨hs, hrx, hbase, hgroup⟩, rfl, rfl,
    ?_, rfl, rfl, rfl, rfl⟩
  rw [exec_radioReceive (s := s.storeFrame f) hs, State.receive_of_corrupt_frame (s := s.storeFrame f) rfl hcrc]

/-! ## What arms the receiver and what clears END -/

/-- The receiver is armed or not, and holds a completed frame or not, as before. -/
def State.SameReceiver (s t : State) : Prop := t.radioRx = s.radioRx ∧ t.radioEnd = s.radioEnd

/-- What an event does to the receiver's armed flag and to END. -/
inductive ReceiverEffect (s : State) (e : Event) (t : State) : Prop where
  | arm (he : issues e .radioStartRx) (hend : t.radioEnd = s.radioEnd)
  | receive (he : issues e .radioReceive) (hrx : t.radioRx = s.radioRx)
  | deliver (hrx : t.radioRx = false) (hend : t.radioEnd = true)
  | reset (he : resets e s) (hrx : t.radioRx = false)
  | kept (hs : s.SameReceiver t)

theorem receiverEffect_of_command {e : Event} {i : Instr} {s t : State} (he : issues e i) (hx : ExecEffect s i t) :
    ReceiverEffect s e t := by
  cases hx with
  | ignored => exact .kept ⟨rfl, rfl⟩
  | ledSubmit => exact .kept ⟨rfl, rfl⟩
  | ledClear => exact .kept ⟨rfl, rfl⟩
  | ledStep _ ha => rw [State.activation_frame ha]; exact .kept ⟨rfl, rfl⟩
  | @radioConfigure group =>
    obtain ⟨_, _, _, _, -, hf⟩ := s.configureRadio_frame group
    rw [hf]; exact .kept ⟨rfl, rfl⟩
  | radioStartRx =>
    obtain ⟨_, _, _, hf⟩ := s.startReceive_frame
    rw [hf]; exact .arm he rfl
  | radioReceive =>
    obtain ⟨_, _, _, _, hf⟩ := s.receive_frame
    rw [hf]; exact .receive he rfl
  | errClear => exact .kept ⟨rfl, rfl⟩

theorem State.sameReceiver_of_tick {s t : State} (h : s.tick = .next t) : s.SameReceiver t := by
  obtain ⟨-, rfl⟩ | ⟨-, -, rfl⟩ | ⟨-, -, ha⟩ := State.tick_next_cases h
  · exact ⟨rfl, rfl⟩
  · exact ⟨rfl, rfl⟩
  · rw [State.activation_frame ha]
    exact ⟨rfl, rfl⟩

theorem receiverEffect_of_deliver (s : State) (f : Frame) : ReceiverEffect s (.frame f) (s.deliver f) := by
  obtain hd | ⟨-, -, -, -, hd⟩ := s.deliver_cases f <;> rw [hd]
  · exact .kept ⟨rfl, rfl⟩
  · exact .deliver rfl rfl

theorem receiverEffect_of_perform {e : Event} {s t : State} (h : perform e s = .next t) : ReceiverEffect s e t := by
  cases eventEffect_of_perform h with
  | command he hx => exact receiverEffect_of_command he hx
  | badWord => exact .kept ⟨rfl, rfl⟩
  | writeCtrl v =>
    obtain ⟨_, _, _, _, _, hf⟩ := s.writeCtrl_frame v
    rw [hf]; exact .kept ⟨rfl, rfl⟩
  | writeImg j v =>
    obtain ⟨_, hf⟩ := s.writeImg_frame j v
    rw [hf]; exact .kept ⟨rfl, rfl⟩
  | tick ht => exact .kept (State.sameReceiver_of_tick ht)
  | frame f => exact receiverEffect_of_deliver s f
  | reset hr => exact .reset ⟨_, rfl, hr⟩ rfl
  | hostOnly hb => rw [hb]; exact .kept ⟨rfl, rfl⟩

/-- A frame that changes anything is delivered, and so leaves the receiver disarmed. -/
theorem radioRx_of_perform_frame_ne {s t : State} {f : Frame} (h : perform (.frame f) s = .next t) (hne : t ≠ s) :
    t.radioRx = false := by
  by_cases hacc : s.Accepts f
  · cases (perform_frame_of_accepts hacc).symm.trans h
    rfl
  · cases (perform_frame_of_not_accepts hacc).symm.trans h
    exact absurd rfl hne

/-- RADIO_START_RX over a frame not yet received leaves the receiver as it was. -/
theorem radioRx_of_exec_startRx_framePending {s t : State} (he : s.radioEnd = true)
    (h : exec .radioStartRx s = .next t) : t.radioRx = s.radioRx := by
  cases execEffect_of_exec h with
  | ignored => rfl
  | radioStartRx =>
    obtain ⟨-, ht⟩ | ⟨-, -, ht⟩ | ⟨-, hend, -⟩ := s.startReceive_cases
    · rw [ht]; rfl
    · rw [ht]; rfl
    · exact absurd hend (by simp [he])

/-- Settles O38, from what each event does to the receiver. -/
theorem noAutomaticRearm : Obligations.NoAutomaticRearm := by
  refine ⟨fun s t f => radioRx_of_perform_frame_ne, fun s f hrx => ?_, fun e s t h h0 h1 => ?_,
    fun s t he hrx h => (radioRx_of_exec_startRx_framePending he h).trans hrx, fun e s t h h1 h0 => ?_⟩
  · refine perform_frame_of_not_accepts ?_
    rintro ⟨-, harmed, -, -⟩
    simp [hrx] at harmed
  · cases receiverEffect_of_perform h with
    | arm he _ => exact he
    | receive _ hrx => simp [hrx, h0] at h1
    | deliver hrx _ => simp [hrx] at h1
    | reset _ hrx => simp [hrx] at h1
    | kept hk =>
      obtain ⟨hrx, -⟩ := hk
      simp [hrx, h0] at h1
  · cases receiverEffect_of_perform h with
    | arm _ hend => simp [hend, h1] at h0
    | receive he _ => exact .inl he
    | deliver _ hend => simp [hend] at h0
    | reset he _ => exact .inr he
    | kept hk =>
      obtain ⟨-, hend⟩ := hk
      simp [hend, h1] at h0

end Sys2Proof.Machine
end

section
/-! PROOF. The control family: what ERR_CLEAR does while the block runs and while it is HALTED (42_control.md R130). -/

namespace Sys2Proof.Machine

theorem exec_errClear {s : State} (hs : s.halted = false) : exec .errClear s = .next s.clearErr :=
  unlessHalted_running _ hs

/-- Settles O44: HALTED ignores the command, and otherwise only the error record is written. -/
theorem errClearClearsError : Obligations.ErrClearClearsError := by
  refine ⟨decode_encode .errClear, fun s => ⟨exec_halted _, fun hs => ?_⟩⟩
  rw [exec_errClear hs, State.clearErr]

end Sys2Proof.Machine
end

section
/-! PROOF. The halt: the one command that enters it, and what stands until a reset event (60_exceptions.md R145). -/

namespace Sys2Proof.Machine

/-! ## What halts the block -/

/-- A command leaves the block HALTED or not as it was, except RADIO_CONFIGURE while armed. -/
theorem ExecEffect.halted {i : Instr} {s t : State} (hx : ExecEffect s i t) :
    t.halted = s.halted ∨
      s.radioRx = true ∧ (∃ group, i = .radioConfigure group) ∧ t = { s with err := 15, halted := true } := by
  cases hx with
  | ignored => exact .inl rfl
  | ledSubmit => exact .inl rfl
  | ledClear => exact .inl rfl
  | ledStep _ ha => rw [State.activation_frame ha]; exact .inl rfl
  | @radioConfigure group =>
    obtain ⟨hrx, -⟩ | ⟨-, hc⟩ := s.configureRadio_cases group
    · exact .inr ⟨hrx, ⟨group, rfl⟩, State.configureRadio_of_armed group hrx⟩
    · rw [hc]; exact .inl rfl
  | radioStartRx =>
    obtain ⟨_, _, _, hf⟩ := s.startReceive_frame
    rw [hf]; exact .inl rfl
  | radioReceive =>
    obtain ⟨_, _, _, _, hf⟩ := s.receive_frame
    rw [hf]; exact .inl rfl
  | errClear => exact .inl rfl

theorem halted_of_tick {s t : State} (h : s.tick = .next t) : t.halted = s.halted := by
  obtain ⟨-, rfl⟩ | ⟨-, -, rfl⟩ | ⟨-, -, ha⟩ := State.tick_next_cases h
  · rfl
  · rfl
  · rw [State.activation_frame ha]

/-- Among all events only RADIO_CONFIGURE while armed halts the block; a reset event only leaves the halt. -/
theorem halts_only_by_configure {e : Event} {s t : State} (h : perform e s = .next t) (hs : s.halted = false)
    (ht : t.halted = true) :
    s.radioRx = true ∧ (∃ group, issues e (.radioConfigure group)) ∧ t = { s with err := 15, halted := true } := by
  have hne : t.halted ≠ s.halted := by simp [hs, ht]
  cases eventEffect_of_perform h with
  | command he hx =>
    obtain ⟨hrx, ⟨group, rfl⟩, hst⟩ := hx.halted.resolve_left hne
    exact ⟨hrx, ⟨group, he⟩, hst⟩
  | badWord => exact absurd rfl hne
  | writeCtrl v =>
    obtain ⟨_, _, _, _, _, hf⟩ := s.writeCtrl_frame v
    rw [hf] at hne; exact absurd rfl hne
  | writeImg j v =>
    obtain ⟨_, hf⟩ := s.writeImg_frame j v
    rw [hf] at hne; exact absurd rfl hne
  | tick hk => exact absurd (halted_of_tick hk) hne
  | frame f =>
    obtain ⟨_, _, _, _, hf⟩ := s.deliver_frame f
    rw [hf] at hne; exact absurd rfl hne
  | reset => exact absurd hs.symm hne
  | hostOnly hb => rw [hb] at hne; exact absurd rfl hne

/-! ## What stands while HALTED -/

theorem perform_tick_halted {s : State} (hs : s.halted = true) : perform .tick s = .next s :=
  perform_tick_of_not_enabled fun he => by
    obtain ⟨hrun, -, -⟩ := State.tickEnabled_iff.mp he
    simp [hs] at hrun

theorem perform_frame_halted {s : State} (f : Frame) (hs : s.halted = true) : perform (.frame f) s = .next s :=
  perform_frame_of_not_accepts fun hacc => by
    obtain ⟨hrun, -⟩ := hacc
    simp [hs] at hrun

theorem perform_issued_halted {e : Event} {i : Instr} {s : State} (he : issues e i) (hs : s.halted = true) :
    perform e s = .next s :=
  (perform_of_issues he s).trans (exec_halted i hs)

/-- While HALTED an event that is no reset event reaches the host's own fields at most. -/
theorem sameBlock_of_perform_halted {e : Event} {s t : State} (h : perform e s = .next t) (hs : s.halted = true)
    (hr : ¬resets e s) : s.SameBlock t := by
  have of_ignored (hi : perform e s = .next s) : s.SameBlock t := by
    cases hi.symm.trans h
    exact .refl s
  cases eventEffect_of_perform h with
  | command he => exact of_ignored (perform_issued_halted he hs)
  | badWord _ hrun => simp [hs] at hrun
  | writeCtrl v => exact of_ignored ((perform_write_offset s .ctrl v).trans (writeReg_halted .ctrl v hs))
  | writeImg j v => exact of_ignored ((perform_write_offset s (.img j) v).trans (writeReg_halted (.img j) v hs))
  | tick => exact of_ignored (perform_tick_halted hs)
  | frame f => exact of_ignored (perform_frame_halted f hs)
  | reset hres => exact absurd ⟨_, rfl, hres⟩ hr
  | hostOnly hb => exact hb

/-- Settles O46: the one way into the halt, what every event leaves while HALTED, and the reads of the frozen
registers. -/
theorem haltFreezesTheBlock : Obligations.HaltFreezesTheBlock :=
  ⟨fun _ _ _ => halts_only_by_configure, fun _ _ _ => sameBlock_of_perform_halted, fun s _ _ => perform_read s⟩

end Sys2Proof.Machine
end

section
/-! PROOF. What any event may change, one record update for each kind of event, and the statements about which events
change a field (10_state.md R15, R19 to R23, R30 to R33). -/

namespace Sys2Proof.Machine

/-! ## The frame of an event -/

/-- What an event that answers a next state may change: every field not named stands. An event of the last two kinds
may change the registers that no other kind names, or the host's contexts. -/
inductive EventFrame (s : State) (e : Event) (t : State) : Prop where
  | activation (he : activates e)
      (ht : t = { s with
                  row := t.row, mask := t.mask, rowAct := t.rowAct, colAct := t.colAct, active := t.active
                  pendingUpdate := t.pendingUpdate, ledDelay := t.ledDelay, timerArmed := t.timerArmed
                  timerRem := t.timerRem })
  | clear (he : issues e .ledClear) (ht : t = { s with rowAct := t.rowAct, colAct := t.colAct })
  | submit (he : issues e .ledSubmit) (ht : t = { s with pending := t.pending, pendingUpdate := t.pendingUpdate })
  | receive (he : issues e .radioReceive)
      (ht : t = { s with err := t.err, radioEnd := t.radioEnd, rxdata := t.rxdata, rxLen := t.rxLen })
  | deliver {f : Frame} (he : e = .frame f) (hf : s.Accepts f)
      (ht : t = { s with
                  rxbuf := t.rxbuf, radioCrcok := t.radioCrcok, radioEnd := t.radioEnd, radioRx := t.radioRx })
  | reset (he : resets e s) (ht : t = s.resetBlock)
  | registers
      (ht : t = { s with
                  halted := t.halted, err := t.err, ledEn := t.ledEn, mode := t.mode, intenEnd := t.intenEnd
                  img := t.img, timerArmed := t.timerArmed, timerRem := t.timerRem
                  radioConfigured := t.radioConfigured, radioRx := t.radioRx, radioGroup := t.radioGroup
                  hostCritical := t.hostCritical, hostData := t.hostData })
  | contexts (ht : t = { s with hostHandlers := t.hostHandlers, hostRequests := t.hostRequests })
      (hc : (∃ src, t = s.takeIrq src) ∨ t = s.returnFromIrq ∨ ∃ src, t = s.request src)

theorem eventFrame_of_command {e : Event} {i : Instr} {s t : State} (he : issues e i) (hx : ExecEffect s i t) :
    EventFrame s e t := by
  cases hx with
  | ignored => exact .registers rfl
  | ledSubmit => exact .submit he rfl
  | ledClear => exact .clear he rfl
  | ledStep _ ha => exact .activation (.inr he) (State.activation_frame ha)
  | @radioConfigure group =>
    obtain ⟨_, _, _, _, -, hf⟩ := s.configureRadio_frame group
    exact .registers (by rw [hf])
  | radioStartRx =>
    obtain ⟨_, _, _, hf⟩ := s.startReceive_frame
    exact .registers (by rw [hf])
  | radioReceive =>
    obtain ⟨_, _, _, _, hf⟩ := s.receive_frame
    exact .receive he (by rw [hf])
  | errClear => exact .registers rfl

theorem eventFrame_of_write {off : Offset} {v : Word} {s t : State} (ha : off.toNat % 4 = 0)
    (h : writeOffset off v s = .next t) : EventFrame s (.host (.write .bits32 off v)) t := by
  obtain ⟨hr, hc⟩ | ⟨-, rfl⟩ | ⟨j, -, rfl⟩ | rfl := writeOffset_next_cases h
  · obtain rfl := eq_offset_of_regAt ha hr
    obtain ⟨i, hw, he⟩ | ⟨err, -, he⟩ := command_cases v s
    · exact eventFrame_of_command ⟨v, rfl, hw⟩ (execEffect_of_exec (he ▸ hc))
    · obtain ⟨-, rfl⟩ | ⟨-, ht⟩ := unlessHalted_next_cases (he ▸ hc)
      · exact .registers rfl
      · cases ht; exact .registers rfl
  · obtain ⟨_, _, _, _, _, hf⟩ := s.writeCtrl_frame v
    exact .registers (by rw [hf])
  · obtain ⟨_, hf⟩ := s.writeImg_frame j v
    exact .registers (by rw [hf])
  · exact .registers rfl

theorem State.takeIrq_frame (s : State) (src : IrqSource) :
    ∃ handlers requests, s.takeIrq src = { s with hostHandlers := handlers, hostRequests := requests } := by
  obtain h | ⟨-, -, -, h⟩ := s.takeIrq_cases src <;> exact ⟨_, _, h⟩

theorem State.returnFromIrq_frame (s : State) :
    ∃ handlers, s.returnFromIrq = { s with hostHandlers := handlers } := by
  obtain ⟨-, h⟩ | ⟨-, h⟩ := s.returnFromIrq_cases <;> exact ⟨_, h⟩

theorem State.request_frame (s : State) (src : IrqSource) :
    ∃ requests, s.request src = { s with hostRequests := requests } := by
  obtain h | ⟨-, -, h⟩ := s.request_cases src <;> exact ⟨_, h⟩

theorem eventFrame_of_hostStep {op : HostOp} {s t : State} (h : hostStep op s = .next t) :
    EventFrame s (.host op) t := by
  obtain ⟨off, -, -, rfl⟩ | ⟨off, v, rfl, ha, hw⟩ | rfl | rfl | rfl | ⟨src, rfl⟩ | rfl := hostStep_next_cases h
  · exact .registers rfl
  · exact eventFrame_of_write ha hw
  · exact .registers rfl
  · exact .registers rfl
  · exact .registers rfl
  · obtain ⟨_, _, hf⟩ := s.takeIrq_frame src
    exact .contexts (by rw [hf]) (.inl ⟨src, rfl⟩)
  · obtain ⟨_, hf⟩ := s.returnFromIrq_frame
    exact .contexts (by rw [hf]) (.inr (.inl rfl))

theorem eventFrame_of_tick {s t : State} (h : s.tick = .next t) : EventFrame s .tick t := by
  refine .activation (.inl rfl) ?_
  obtain ⟨-, rfl⟩ | ⟨-, -, rfl⟩ | ⟨-, -, ha⟩ := State.tick_next_cases h
  · rfl
  · rfl
  · rw [State.activation_frame ha]

/-- Every event that answers a next state keeps to one of the frames. -/
theorem eventFrame_of_perform {e : Event} {s t : State} (h : perform e s = .next t) : EventFrame s e t := by
  obtain ⟨op, rfl, hop⟩ | ⟨rfl, ht⟩ | ⟨f, rfl, rfl⟩ | ⟨src, rfl, rfl⟩ | ⟨src, rfl, rfl⟩ := perform_next_cases h
  · exact eventFrame_of_hostStep hop
  · exact eventFrame_of_tick ht
  · obtain hd | ⟨hs, hrx, hbase, hgroup, hd⟩ := s.deliver_cases f <;> rw [hd]
    · exact .registers rfl
    · exact .deliver rfl ⟨hs, hrx, hbase, hgroup⟩ rfl
  · obtain ⟨hr, hs⟩ | ⟨-, hs⟩ := s.resetEvent_cases src <;> rw [hs]
    · exact .reset ⟨_, rfl, hr⟩ rfl
    · exact .registers rfl
  · obtain ⟨_, hf⟩ := s.request_frame src
    exact .contexts (by rw [hf]) (.inr (.inr ⟨src, rfl⟩))

/-! ## The configuration -/

theorem EventFrame.cfg {e : Event} {s t : State} (h : EventFrame s e t) : t.cfg = s.cfg := by
  cases h with
  | activation _ ht => rw [ht]
  | clear _ ht => rw [ht]
  | submit _ ht => rw [ht]
  | receive _ ht => rw [ht]
  | deliver _ _ ht => rw [ht]
  | reset _ ht => rw [ht]; rfl
  | registers ht => rw [ht]
  | contexts ht => rw [ht]

/-- Settles O11: the step is an event, and every frame keeps the configuration. -/
theorem stepKeepsConfiguration : Obligations.StepKeepsConfiguration := by
  intro s t h
  obtain ⟨agenda, choices, hd⟩ := dropEvent_frame s
  rw [step_eq_perform, hd] at h
  exact (eventFrame_of_perform h).cfg

/-! ## The display -/

/-- The cursor and the active buffer stand. -/
def State.SameCursor (s t : State) : Prop := t.row = s.row ∧ t.mask = s.mask ∧ t.active = s.active

/-- The drive lines stand. -/
def State.SameLines (s t : State) : Prop := t.rowAct = s.rowAct ∧ t.colAct = s.colAct

/-- What an event does to the fields of the display. -/
structure DisplayEffect (s : State) (e : Event) (t : State) : Prop where
  cursor : s.SameCursor t ∨ activates e ∨ resets e s
  lines : s.SameLines t ∨ activates e ∨ issues e .ledClear ∨ resets e s
  pending : t.pending = s.pending ∨ issues e .ledSubmit ∨ resets e s

theorem EventFrame.displayEffect {e : Event} {s t : State} (h : EventFrame s e t) : DisplayEffect s e t := by
  cases h with
  | activation he ht => rw [ht]; exact ⟨.inr (.inl he), .inr (.inl he), .inl rfl⟩
  | clear he ht => rw [ht]; exact ⟨.inl ⟨rfl, rfl, rfl⟩, .inr (.inr (.inl he)), .inl rfl⟩
  | submit he ht => rw [ht]; exact ⟨.inl ⟨rfl, rfl, rfl⟩, .inl ⟨rfl, rfl⟩, .inr (.inl he)⟩
  | receive _ ht => rw [ht]; exact ⟨.inl ⟨rfl, rfl, rfl⟩, .inl ⟨rfl, rfl⟩, .inl rfl⟩
  | deliver _ _ ht => rw [ht]; exact ⟨.inl ⟨rfl, rfl, rfl⟩, .inl ⟨rfl, rfl⟩, .inl rfl⟩
  | reset he => exact ⟨.inr (.inr he), .inr (.inr (.inr he)), .inr (.inr he)⟩
  | registers ht => rw [ht]; exact ⟨.inl ⟨rfl, rfl, rfl⟩, .inl ⟨rfl, rfl⟩, .inl rfl⟩
  | contexts ht => rw [ht]; exact ⟨.inl ⟨rfl, rfl, rfl⟩, .inl ⟨rfl, rfl⟩, .inl rfl⟩

/-- Settles O26, from what each event does to the display. -/
theorem whatChangesTheDisplay : Obligations.WhatChangesTheDisplay := by
  intro e s t h
  obtain ⟨hcursor, hlines, hpending⟩ := (eventFrame_of_perform h).displayEffect
  refine ⟨fun hne => hcursor.resolve_left ?_, fun hne => hlines.resolve_left ?_, hpending.resolve_left⟩
  · rintro ⟨hrow, hmask, hactive⟩
    simp [hrow, hmask, hactive] at hne
  · rintro ⟨hrow, hcol⟩
    simp [hrow, hcol] at hne

/-! ## The receive storage -/

/-- What an event does to the receive buffer with its CRC result, and to the host's copy with its length. -/
structure StorageEffect (s : State) (e : Event) (t : State) : Prop where
  buffer : (t.rxbuf = s.rxbuf ∧ t.radioCrcok = s.radioCrcok) ∨ (∃ f, e = .frame f ∧ s.Accepts f) ∨ resets e s
  copy : (t.rxdata = s.rxdata ∧ t.rxLen = s.rxLen) ∨ issues e .radioReceive ∨ resets e s

theorem EventFrame.storageEffect {e : Event} {s t : State} (h : EventFrame s e t) : StorageEffect s e t := by
  cases h with
  | activation _ ht => rw [ht]; exact ⟨.inl ⟨rfl, rfl⟩, .inl ⟨rfl, rfl⟩⟩
  | clear _ ht => rw [ht]; exact ⟨.inl ⟨rfl, rfl⟩, .inl ⟨rfl, rfl⟩⟩
  | submit _ ht => rw [ht]; exact ⟨.inl ⟨rfl, rfl⟩, .inl ⟨rfl, rfl⟩⟩
  | receive he ht => rw [ht]; exact ⟨.inl ⟨rfl, rfl⟩, .inr (.inl he)⟩
  | deliver he hf ht => rw [ht]; exact ⟨.inr (.inl ⟨_, he, hf⟩), .inl ⟨rfl, rfl⟩⟩
  | reset he => exact ⟨.inr (.inr he), .inr (.inr he)⟩
  | registers ht => rw [ht]; exact ⟨.inl ⟨rfl, rfl⟩, .inl ⟨rfl, rfl⟩⟩
  | contexts ht => rw [ht]; exact ⟨.inl ⟨rfl, rfl⟩, .inl ⟨rfl, rfl⟩⟩

/-- Settles O42, from what each event does to the receive storage. -/
theorem whatChangesReceiveStorage : Obligations.WhatChangesReceiveStorage := by
  intro e s t h
  obtain ⟨hbuffer, hcopy⟩ := (eventFrame_of_perform h).storageEffect
  refine ⟨fun hne => (hbuffer.resolve_left ?_).imp_left ?_, fun hne => hcopy.resolve_left ?_⟩
  · rintro ⟨hbuf, hcrc⟩
    simp [hbuf, hcrc] at hne
  · rintro ⟨f, he, -, -, hbase, hgroup⟩
    exact ⟨f, he, hbase, hgroup⟩
  · rintro ⟨hdata, hlen⟩
    simp [hdata, hlen] at hne

end Sys2Proof.Machine
end

section
/-! PROOF. The statements about words and offsets: the encoding of commands, the register map, the reserved offsets,
and what CTRL, the byte arrays and the whole window read (10_state.md R37, R40, R47, R48, R50; 20_memory.md R55). -/

namespace Sys2Proof

/-! ## Command words -/

/-- Settles O1: the decoder's answer by the word's fields, as `decode_eq_ok_iff` has it. -/
theorem decodeReadsExactlyEncodedWords : Obligations.DecodeReadsExactlyEncodedWords :=
  fun _ _ => decode_eq_ok_iff

/-- Settles O3: four encodings, an OP outside the map and a reserved bit of RADIO_CONFIGURE. -/
theorem specWordsDecode : Obligations.SpecWordsDecode :=
  ⟨decode_encode .ledSubmit, decode_encode (.radioConfigure 0x2A), decode_encode .radioReceive,
    decode_encode .errClear, decode_of_unlisted (by decide), decode_of_reservedBitSet (.inr ⟨rfl, by decide⟩)⟩

/-! ## Offsets -/

theorem Reg.offset_injective {r r' : Reg} (h : r.offset = r'.offset) : r = r' := by
  have hr := regAt_offset r
  rw [h, regAt_offset] at hr
  exact (Option.some.inj hr).symm

/-- At a word-aligned offset the decoder finds a register exactly where that is its offset. -/
theorem regAt_eq_some_iff {off : Offset} {r : Reg} (ha : off.toNat % 4 = 0) :
    regAt off = some r ↔ off = r.offset := by
  constructor
  · exact eq_offset_of_regAt ha
  · rintro rfl
    exact regAt_offset r

theorem regAt_eq_none {off : Offset} (ha : off.toNat % 4 = 0) (hn : ∀ r : Reg, off ≠ r.offset) :
    regAt off = none := by
  cases h : regAt off with
  | none => rfl
  | some r => exact absurd (eq_offset_of_regAt ha h) (hn r)

/-- The arrays of seven words stand at 0x040, 0x100 and 0x120 (10_state.md R37). -/
theorem Reg.offset_toNat_of_sevenWords : ∀ j : Fin 7,
    (Reg.img j).offset.toNat = 0x040 + 4 * j.val ∧ (Reg.active j).offset.toNat = 0x100 + 4 * j.val ∧
      (Reg.pending j).offset.toNat = 0x120 + 4 * j.val := by decide

/-- The sixteen words of RXDATA stand at 0x080 (10_state.md R37). -/
theorem Reg.offset_toNat_of_rxdata : ∀ j : Fin 16, (Reg.rxdata j).offset.toNat = 0x080 + 4 * j.val := by decide

/-- Settles O7: the decoder of offsets inverts the register map, whose offsets are those of R37. -/
theorem registerOffsetsRoundTrip : Obligations.RegisterOffsetsRoundTrip :=
  ⟨fun r => ⟨regAt_offset r, Machine.accessAdmitted_iff.mpr ⟨rfl, r.offset_toNat_mod_four⟩⟩,
    fun _ _ => regAt_eq_some_iff, ⟨rfl, rfl, rfl, rfl, rfl, rfl, rfl, rfl⟩,
    Reg.offset_toNat_of_sevenWords, Reg.offset_toNat_of_rxdata⟩

end Sys2Proof

namespace Sys2Proof.Machine

/-! ## Reserved offsets -/

theorem readOffset_of_reserved (s : State) {off : Offset} (h : regAt off = none) : readOffset s off = 0 := by
  rw [readOffset, h]

theorem writeOffset_of_reserved (s : State) (v : Word) {off : Offset} (h : regAt off = none) :
    writeOffset off v s = .next s := by
  rw [writeOffset, h]

/-- Settles O49: no register answers at the offset. -/
theorem reservedOffsetsReadZero : Obligations.ReservedOffsetsReadZero := by
  intro s v off ha hn
  have hr := regAt_eq_none ha hn
  exact ⟨by rw [perform_read s ha, readOffset_of_reserved s hr],
    by rw [perform_write s v ha, writeOffset_of_reserved s v hr]⟩

/-! ## Byte arrays -/

/-- Settles O53: each array's word is packed from its bytes. -/
theorem byteArraysPackLittleEndian : Obligations.ByteArraysPackLittleEndian := by
  refine fun s i => ⟨fun j => ?_, fun j => ?_, fun j => ?_⟩
  · rw [readOffset_offset]
    exact byteOf_packWord s.rxdata j i i.isLt
  · rw [readOffset_offset]
    exact byteOf_packWord s.active j i i.isLt
  · rw [readOffset_offset]
    exact byteOf_packWord s.pending j i i.isLt

/-! ## The window after reset -/

theorem packWord_replicate_zero (n j : Nat) : packWord (Vector.replicate n (0 : Byte)) j = 0 := by
  apply eq_of_byteOf_eq
  intro i hi
  have hzero : byteOf 0 i = 0 := BitVec.extractLsb'_zero
  rw [byteOf_packWord _ _ _ hi, hzero, Vector.getElem?_replicate]
  split <;> rfl

theorem ctrlWord_resetWith (c : Config) : ctrlWord (State.resetWith c) = 0 := by
  simp only [ctrlWord, State.resetWith_fields]
  decide

/-- Every register but STATUS reads 0 after reset (10_state.md R50). -/
theorem readReg_resetWith (c : Config) {r : Reg} (hr : r ≠ .status) : readReg (State.resetWith c) r = 0 := by
  cases r with
  | status => exact absurd rfl hr
  | ctrl => exact ctrlWord_resetWith c
  | lines => exact linesWord_resetWith c
  | img j => exact packWord_replicate_zero 25 j
  | rxdata j => exact packWord_replicate_zero 64 j
  | active j => exact packWord_replicate_zero 27 j
  | pending j => exact packWord_replicate_zero 27 j
  | _ => rfl

/-- Settles O57, by the register at the offset, if any. -/
theorem resetWindowReads : Obligations.ResetWindowReads := by
  intro c off ha
  have hstatus : (0x004 : Offset) = Reg.status.offset := rfl
  cases h : regAt off with
  | none =>
    have hne : off ≠ 0x004 := by
      rintro rfl
      rw [hstatus, regAt_offset] at h
      cases h
    rw [readOffset_of_reserved _ h, if_neg hne]
  | some r =>
    obtain rfl := eq_offset_of_regAt ha h
    rw [readOffset_offset, hstatus]
    by_cases hr : r = .status
    · subst hr
      exact statusWord_resetWith c
    · rw [readReg_resetWith c hr, if_neg (mt Reg.offset_injective hr)]

/-! ## CTRL -/

/-- The bits of CTRL (10_state.md R40). -/
theorem ctrlWord_fields (s : State) :
    (ctrlWord s).getLsbD 0 = s.ledEn ∧ (ctrlWord s).getLsbD 1 = s.mode.bit ∧ (ctrlWord s).getLsbD 2 = s.intenEnd ∧
      (ctrlWord s).extractLsb' 3 29 = 0 := by
  refine ⟨?_, ?_, ?_, ?_⟩
  · simp only [ctrlWord, BitVec.getLsbD_append]
    simp
  · simp only [ctrlWord, BitVec.getLsbD_append]
    simp
  · simp only [ctrlWord, BitVec.getLsbD_append]
    simp
  · simp (disch := omega) only [ctrlWord, BitVec.extractLsb'_append_eq_of_le]
    simp

theorem getLsbD_0x7 : ∀ k < 32, (0x7 : Word).getLsbD k = decide (k < 3) := by decide

/-- CTRL reads the three low bits of the word whose bits its fields hold. -/
theorem ctrlWord_eq_and {s : State} {v : Word} (h0 : s.ledEn = v.getLsbD 0) (h1 : s.mode.bit = v.getLsbD 1)
    (h2 : s.intenEnd = v.getLsbD 2) : ctrlWord s = v &&& 0x7 := by
  obtain ⟨c0, c1, c2, chigh⟩ := ctrlWord_fields s
  apply BitVec.eq_of_getLsbD_eq
  intro k hk
  rw [BitVec.getLsbD_and, getLsbD_0x7 k hk]
  obtain rfl | rfl | rfl | h3 : k = 0 ∨ k = 1 ∨ k = 2 ∨ 3 ≤ k := by omega
  · simpa using c0.trans h0
  · simpa using c1.trans h1
  · simpa using c2.trans h2
  · have hbit := congrArg (·.getLsbD (k - 3)) chigh
    rw [BitVec.getLsbD_extractLsb', show 3 + (k - 3) = k by omega] at hbit
    simpa [show k - 3 < 29 by omega, show ¬k < 3 by omega] using hbit

theorem LedMode.bit_modeOfBit (b : Bool) : (modeOfBit b).bit = b := by cases b <;> rfl

theorem LedMode.bit_eq_true_iff (m : LedMode) : m.bit = true ↔ m = .rowCycle := by cases m <;> simp [LedMode.bit]

theorem readOffset_ctrl (s : State) : readOffset s 0x008 = ctrlWord s := readOffset_offset s .ctrl

/-- Settles O31: the fields that a CTRL write sets, and the bits that a read of CTRL returns. -/
theorem ctrlWriteWithoutEdge : Obligations.CtrlWriteWithoutEdge := by
  refine ⟨fun s v hs => ⟨fun hedge => ?_, _, perform_write_ctrl v hs, ?_⟩, fun s => ?_, fun c => ?_⟩
  · rw [perform_write_ctrl v hs, hedge, if_pos rfl, if_pos rfl]
    rfl
  · rw [readOffset_ctrl]
    exact ctrlWord_eq_and rfl (LedMode.bit_modeOfBit _) rfl
  · rw [readOffset_ctrl]
    obtain ⟨h0, h1, h2, hhigh⟩ := ctrlWord_fields s
    exact ⟨h0, h1 ▸ s.mode.bit_eq_true_iff, h2, hhigh⟩
  · rw [readOffset_ctrl]
    exact ctrlWord_resetWith c

end Sys2Proof.Machine
end

section
/-! PROOF. The agenda: the event at its head is what the next step performs, and no event reads or changes it
(20_memory.md R61 to R64; log 2). -/

namespace Sys2Proof.Machine

/-! ## The next event -/

/-- The step takes the event at the head off the agenda and performs it, once the host has noted its line (log 7). -/
theorem step_of_agenda {s : State} {e : Event} {rest : List Event} (h : s.agenda = e :: rest) :
    step s = perform e { s with agenda := rest, hostRequests := s.requests } := by
  have hnext : nextEvent s = e := by rw [nextEvent, h]
  have hdrop : dropEvent s = { s with agenda := rest } := by rw [dropEvent, h]
  rw [step_eq_perform, hnext, hdrop]
  rfl

/-- Settles O8: the event at the head issues the command. -/
theorem stepRunsDecodedCommand : Obligations.StepRunsDecodedCommand := by
  intro s w i rest h hw
  rw [step_of_agenda h]
  exact perform_of_issues ⟨w, rfl, hw⟩ _

/-- A table row's word that decodes is the word placed. -/
theorem decode_placedWord {nbits w : Nat} {i : Instr} (h : decodeTableWord nbits w = some i) :
    decode (placedWord nbits w) = .ok i := by
  have htable : tableWord nbits w = some (placedWord nbits w) ∨ tableWord nbits w = none := by
    unfold tableWord placedWord
    exact ite_eq_or_eq _ _ _
  obtain ht | ht := htable <;> rw [decodeTableWord, ht] at h <;> dsimp only at h
  · split at h
    · next j hj => rw [hj, Option.some.inj h]
    · cases h
  · cases h

/-- Settles O9: the placed word is the head of the agenda, and no request waits after reset. -/
theorem placedCommandRunsNext : Obligations.PlacedCommandRunsNext := by
  intro nbits w i h
  have hplaced (s : State) : step (s.withFetchWord nbits w) = exec i { s with hostRequests := s.requests } :=
    stepRunsDecodedCommand (s.withFetchWord nbits w) _ i s.agenda rfl (decode_placedWord h)
  exact ⟨hplaced, fun c => hplaced (State.resetWith c)⟩

/-! ## No operation reads or changes the agenda -/

/-- The state with another agenda. -/
def State.withAgenda (a : List Event) (s : State) : State := { s with agenda := a }

/-- The outcome with another agenda, where it is a next state. -/
def outcomeWithAgenda (a : List Event) : StepOutcome → StepOutcome
  | .next s => .next (s.withAgenda a)
  | .fault f => .fault f
  | .refused r => .refused r

section
variable (a : List Event) (s : State)

theorem State.step1_withAgenda : (s.withAgenda a).step1 = s.step1.withAgenda a := by
  cases hm : s.mode with
  | rowCycle =>
    rw [State.step1_rowCycle hm, State.step1_rowCycle (s := s.withAgenda a) hm, State.stepRowCycle, State.stepRowCycle,
      State.rowAdvance_eq, State.rowAdvance_eq]
    rfl
  | bitPlane =>
    rw [State.step1_bitPlane hm, State.step1_bitPlane (s := s.withAgenda a) hm]
    by_cases h : rotl8 s.mask = 0x01
    · rw [State.stepBitPlane_of_wrap h, State.stepBitPlane_of_wrap (s := s.withAgenda a) h, State.rowAdvance_eq,
        State.rowAdvance_eq]
      rfl
    · rw [State.stepBitPlane_of_not_wrap h, State.stepBitPlane_of_not_wrap (s := s.withAgenda a) h]
      rfl

theorem State.stepUntilDelay_withAgenda (n : Nat) :
    (s.withAgenda a).stepUntilDelay n = (s.stepUntilDelay n).map fun r => (r.1.withAgenda a, r.2) := by
  induction n generalizing s with
  | zero => rfl
  | succ n ih =>
    have hdelay : (s.step1.withAgenda a).stepDelay = s.step1.stepDelay := rfl
    rw [State.stepUntilDelay, State.stepUntilDelay, State.step1_withAgenda, hdelay]
    cases s.step1.stepDelay with
    | none => rfl
    | some d =>
      dsimp only
      by_cases h : d = 0
      · rw [if_pos h, if_pos h, ih]
      · rw [if_neg h, if_neg h]
        rfl

theorem State.activate_withAgenda : (s.withAgenda a).activate = outcomeWithAgenda a s.activate := by
  rw [State.activate, State.activate, State.activation, State.activation, State.stepUntilDelay_withAgenda]
  cases s.stepUntilDelay 8 <;> rfl

theorem State.tick_withAgenda : (s.withAgenda a).tick = outcomeWithAgenda a s.tick := by
  have hlast := State.activate_withAgenda a { s with timerArmed := false }
  rw [State.tick, State.tick, apply_ite (outcomeWithAgenda a), apply_ite (outcomeWithAgenda a), ← hlast]
  rfl

theorem State.receive_withAgenda : (s.withAgenda a).receive = s.receive.withAgenda a := by
  obtain ⟨he, h⟩ | ⟨he, hc, h⟩ | ⟨he, hc, h⟩ := s.receive_cases
  · rw [h, State.receive_of_no_frame (s := s.withAgenda a) he]; rfl
  · rw [h, State.receive_of_good_frame (s := s.withAgenda a) he hc]; rfl
  · rw [h, State.receive_of_corrupt_frame (s := s.withAgenda a) he hc]; rfl

theorem State.startReceive_withAgenda : (s.withAgenda a).startReceive = s.startReceive.withAgenda a := by
  obtain ⟨hc, h⟩ | ⟨hc, he, h⟩ | ⟨hc, he, h⟩ := s.startReceive_cases
  · rw [h, State.startReceive_of_unconfigured (s := s.withAgenda a) hc]; rfl
  · rw [h, State.startReceive_of_framePending (s := s.withAgenda a) hc he]; rfl
  · rw [h, State.startReceive_of_ready (s := s.withAgenda a) hc he]; rfl

theorem State.configureRadio_withAgenda (group : Byte) :
    (s.withAgenda a).configureRadio group = (s.configureRadio group).withAgenda a := by
  obtain ⟨hrx, h⟩ | ⟨hrx, h⟩ := s.configureRadio_cases group
  · rw [h, State.configureRadio_of_armed (s := s.withAgenda a) group hrx]; rfl
  · rw [h, State.configureRadio_of_disarmed (s := s.withAgenda a) group hrx]; rfl

variable {a s} in
theorem unlessHalted_withAgenda {o o' : StepOutcome} (h : o' = outcomeWithAgenda a o) :
    unlessHalted (s.withAgenda a) o' = outcomeWithAgenda a (unlessHalted s o) := by
  rw [h, unlessHalted, unlessHalted, apply_ite (outcomeWithAgenda a)]
  rfl

theorem exec_withAgenda (i : Instr) : exec i (s.withAgenda a) = outcomeWithAgenda a (exec i s) := by
  cases i with
  | ledSubmit => exact unlessHalted_withAgenda rfl
  | ledClear => exact unlessHalted_withAgenda rfl
  | ledStep => exact unlessHalted_withAgenda (State.activate_withAgenda a s)
  | radioConfigure group => exact unlessHalted_withAgenda (congrArg _ (State.configureRadio_withAgenda a s group))
  | radioStartRx => exact unlessHalted_withAgenda (congrArg _ (State.startReceive_withAgenda a s))
  | radioReceive => exact unlessHalted_withAgenda (congrArg _ (State.receive_withAgenda a s))
  | errClear => exact unlessHalted_withAgenda rfl

theorem command_withAgenda (w : Word) : command w (s.withAgenda a) = outcomeWithAgenda a (command w s) := by
  unfold command
  cases decode w with
  | ok i => exact exec_withAgenda a s i
  | error e => exact unlessHalted_withAgenda rfl

theorem State.writeCtrl_withAgenda (v : Word) : (s.withAgenda a).writeCtrl v = (s.writeCtrl v).withAgenda a := by
  have hedge (on : Bool) : (s.withAgenda a).ledEnEdge on = (s.ledEnEdge on).withAgenda a := by
    cases hl : s.ledEn <;> cases on <;> simp [State.ledEnEdge, State.withAgenda, hl]
  rw [State.writeCtrl, State.writeCtrl, apply_ite (State.withAgenda a), hedge]
  rfl

theorem State.writeImg_withAgenda (j : Fin 7) (v : Word) :
    (s.withAgenda a).writeImg j v = (s.writeImg j v).withAgenda a := by
  rw [State.writeImg, State.writeImg, apply_ite (State.withAgenda a)]
  rfl

theorem writeOffset_withAgenda (off : Offset) (v : Word) :
    writeOffset off v (s.withAgenda a) = outcomeWithAgenda a (writeOffset off v s) := by
  unfold writeOffset
  cases regAt off with
  | none => rfl
  | some r =>
    cases r with
    | cmd => exact command_withAgenda a s v
    | ctrl => exact congrArg _ (State.writeCtrl_withAgenda a s v)
    | img j => exact congrArg _ (State.writeImg_withAgenda a s j v)
    | _ => rfl

theorem readOffset_withAgenda (off : Offset) : readOffset (s.withAgenda a) off = readOffset s off := by
  unfold readOffset
  cases regAt off with
  | none => rfl
  | some r => cases r <;> rfl

theorem State.takeIrq_withAgenda (src : IrqSource) :
    (s.withAgenda a).takeIrq src = (s.takeIrq src).withAgenda a := by
  rw [State.takeIrq, State.takeIrq, apply_ite (State.withAgenda a)]
  rfl

theorem State.returnFromIrq_withAgenda : (s.withAgenda a).returnFromIrq = s.returnFromIrq.withAgenda a := by
  rw [State.returnFromIrq, State.returnFromIrq, apply_ite (State.withAgenda a)]
  rfl

theorem hostStep_withAgenda (op : HostOp) : hostStep op (s.withAgenda a) = outcomeWithAgenda a (hostStep op s) := by
  cases op with
  | read size off =>
    simp only [hostStep, readOffset_withAgenda, apply_ite (outcomeWithAgenda a)]
    rfl
  | write size off v =>
    simp only [hostStep, writeOffset_withAgenda, apply_ite (outcomeWithAgenda a)]
    rfl
  | testEnd =>
    simp only [hostStep, readOffset_withAgenda]
    rfl
  | fence => rfl
  | beginCritical => rfl
  | endCritical => rfl
  | takeIrq src => exact congrArg _ (State.takeIrq_withAgenda a s src)
  | returnFromIrq => exact congrArg _ (State.returnFromIrq_withAgenda a s)

theorem State.deliver_withAgenda (f : Frame) : (s.withAgenda a).deliver f = (s.deliver f).withAgenda a := by
  rw [State.deliver, State.deliver, apply_ite (State.withAgenda a)]
  rfl

theorem State.resetEvent_withAgenda (src : ResetSource) :
    (s.withAgenda a).resetEvent src = (s.resetEvent src).withAgenda a := by
  rw [State.resetEvent, State.resetEvent, apply_ite (State.withAgenda a)]
  rfl

theorem State.request_withAgenda (src : IrqSource) :
    (s.withAgenda a).request src = (s.request src).withAgenda a := by
  rw [State.request, State.request, apply_ite (State.withAgenda a)]
  rfl

/-- An event's outcome does not depend on the agenda, which stands. -/
theorem perform_withAgenda (e : Event) : perform e (s.withAgenda a) = outcomeWithAgenda a (perform e s) := by
  cases e with
  | host op => exact hostStep_withAgenda a s op
  | tick => exact State.tick_withAgenda a s
  | frame f => exact congrArg _ (State.deliver_withAgenda a s f)
  | reset src => exact congrArg _ (State.resetEvent_withAgenda a s src)
  | request src => exact congrArg _ (State.request_withAgenda a s src)

end

/-! ## Runs -/

section
variable {M : Host.Core} {s : M.State}

theorem run_succ_of_next {t : M.State} (n : Nat) (h : M.step s = .next t) : M.run (n + 1) s = M.run n t := by
  rw [Host.Core.run, h]

theorem run_succ_of_fault {f : M.Fault} (n : Nat) (h : M.step s = .fault f) : M.run (n + 1) s = .fault f := by
  rw [Host.Core.run, h]

theorem run_succ_of_refused {r : M.Refusal} (n : Nat) (h : M.step s = .refused r) : M.run (n + 1) s = .refused r := by
  rw [Host.Core.run, h]

end

/-- As many steps as the agenda's first events perform them in their order, whatever stands behind them. -/
theorem run_withAgenda (es rest : List Event) (s : State) :
    Host.Core.run Sys2Proof.core es.length (s.withAgenda (es ++ rest)) = runEvents es (s.withAgenda rest) := by
  induction es generalizing s with
  | nil => rfl
  | cons e es ih =>
    have hstep : Sys2Proof.core.step (s.withAgenda (e :: es ++ rest)) =
        outcomeWithAgenda (es ++ rest) (perform e s.noteRequests) :=
      (step_of_agenda rfl).trans (perform_withAgenda (es ++ rest) s.noteRequests e)
    have hperform : perform e (s.withAgenda rest).noteRequests = outcomeWithAgenda rest (perform e s.noteRequests) :=
      perform_withAgenda rest s.noteRequests e
    rw [runEvents, hperform]
    cases ho : perform e s.noteRequests with
    | next t => rw [ho] at hstep; exact (run_succ_of_next es.length hstep).trans (ih t)
    | fault f => rw [ho] at hstep; exact run_succ_of_fault es.length hstep
    | refused r => rw [ho] at hstep; exact run_succ_of_refused es.length hstep

/-- Settles O10: each step takes the head of the agenda, and no event's outcome depends on what stands behind it. -/
theorem stepsFollowAgenda : Obligations.StepsFollowAgenda := run_withAgenda

end Sys2Proof.Machine
end

section
/-! PROOF. The sequencer over several steps: what LED_STEP leaves, where a step commits, the steps to the commit of a
submitted image, the planes an activation ends on, the first pass after reset (40_led.md R88 to R109,
70_reset_and_hazards.md R176, R177). -/

namespace Sys2Proof.Machine

/-! ## What LED_STEP leaves, and where it stops -/

theorem State.steps_mask_of_rowCycle (n : Nat) {s : State} (hm : s.mode = .rowCycle) :
    (State.steps n s).mask = s.mask := by
  refine (State.steps_keep (P := fun u => u.mode = .rowCycle ∧ u.mask = s.mask) (fun u hu => ?_) n ⟨hm, rfl⟩).2
  obtain ⟨hmode, hmask⟩ := hu
  rw [State.step1_rowCycle hmode, State.stepRowCycle, State.rowAdvance_eq]
  exact ⟨hmode, hmask⟩

theorem State.activation_mask_of_rowCycle {s t : State} (hm : s.mode = .rowCycle) (h : s.activation = some t) :
    t.mask = s.mask := by
  obtain ⟨k, d, -, -, -, -, rfl⟩ := State.activation_spec h
  exact State.steps_mask_of_rowCycle k hm

/-- Settles O19: LED_STEP is ignored, or is an activation with its frame. -/
theorem ledStepFrame : Obligations.LedStepFrame := by
  intro s t h
  cases execEffect_of_exec h with
  | ignored => exact ⟨rfl, fun _ => rfl⟩
  | ledStep _ ha => exact ⟨State.activation_frame ha, fun hm => State.activation_mask_of_rowCycle hm ha⟩

/-- The rotation only permutes the bits, so it mends no broken mask. -/
theorem oneHot_of_rotl8 {m : Byte} (h : oneHot (rotl8 m) = true) : oneHot m = true := by
  revert m; decide

/-- A bit-plane step from a mask that is not one-hot returns no delay (log 8). -/
theorem State.stepDelay_step1_of_broken {s : State} (hm : s.mode = .bitPlane) (ho : oneHot s.mask = false) :
    s.step1.stepDelay = none := by
  have hmode : s.step1.mode = .bitPlane := (s.steps_mode 1).trans hm
  have hctz : ctz8 s.step1.mask = none := by
    rw [State.step1_mask_of_bitPlane hm, ← Option.not_isSome_iff_eq_none]
    exact fun h => by simp [oneHot_of_rotl8 h] at ho
  rw [State.stepDelay, hmode, hctz]
  rfl

theorem State.activate_of_broken {s : State} (hm : s.mode = .bitPlane) (ho : oneHot s.mask = false) :
    s.activate = .fault .sequencerStuck := by
  rw [State.activate, State.activation, State.stepUntilDelay, State.stepDelay_step1_of_broken hm ho]
  rfl

/-- Settles O18: the first step of the activation returns no delay. -/
theorem ledStepStopsOnBrokenMask : Obligations.LedStepStopsOnBrokenMask :=
  fun _ hs hm ho => (exec_ledStep hs).trans (State.activate_of_broken hm ho)

/-! ## Delays -/

/-- With no override the wrap has the dwell of its plane (00_scope.md R8). -/
theorem dwell_of_no_override {c : Config} (h : c.wrapDelay = none) (k : Fin 8) (wrapped : Bool) :
    dwell c k wrapped = c.dwell[k] := by
  cases wrapped with
  | false => exact dwell_of_not_wrapped c k
  | true => rw [dwell_of_wrapped, h]; rfl

/-- Settles O22: the plane's dwell, the override on plane 0, and the source's table without one. -/
theorem bitPlaneDelay : Obligations.BitPlaneDelay := by
  refine ⟨fun s k hm hk => ?_, fun c hd hw => ?_⟩
  · rw [State.stepDelay_of_plane hm hk]
    by_cases h0 : k = 0
    · subst h0
      exact congrArg some (dwell_of_wrapped s.cfg 0)
    · rw [if_neg h0, beq_eq_false_iff_ne.mpr h0, dwell_of_not_wrapped]
  · simp only [dwell_of_no_override hw, hd]
    rfl

/-! ## Where a step commits -/

/-- A row advance changes the active buffer only from row 2 with an update pending, and then commits (40_led.md R91,
R98). -/
theorem State.rowAdvance_commits {s : State} (h : s.rowAdvance.active ≠ s.active) :
    s.row = 2 ∧ s.rowAdvance.row = 0 ∧ s.pendingUpdate = true ∧ s.rowAdvance.active = s.pending ∧
      s.rowAdvance.pendingUpdate = false := by
  rw [State.rowAdvance_eq] at h ⊢
  by_cases hc : s.row + 1 = 0 ∧ s.pendingUpdate = true
  · obtain ⟨hr, hu⟩ := hc
    exact ⟨by omega, hr, hu, if_pos ⟨hr, hu⟩, if_pos ⟨hr, hu⟩⟩
  · exact absurd (if_neg hc) h

/-- Settles O25: the only part of a step that writes the active buffer is its row advance. -/
theorem activeChangesOnlyAtRowZero : Obligations.ActiveChangesOnlyAtRowZero := by
  intro s h
  cases hm : s.mode with
  | rowCycle =>
    rw [State.step1_rowCycle hm] at h ⊢
    obtain ⟨hrow, hrow', hu, ha, hu'⟩ := State.rowAdvance_commits (s := s) h
    exact ⟨hrow, hrow', hu, ha, hu', nofun⟩
  | bitPlane =>
    rw [State.step1_bitPlane hm] at h ⊢
    by_cases hw : rotl8 s.mask = 0x01
    · rw [State.stepBitPlane_of_wrap hw] at h ⊢
      obtain ⟨hrow, hrow', hu, ha, hu'⟩ := State.rowAdvance_commits (s := s.rotateMask) h
      exact ⟨hrow, hrow', hu, ha, hu', fun _ => eq_0x80_of_rotl8 hw⟩
    · rw [State.stepBitPlane_of_not_wrap hw] at h
      exact absurd rfl h

/-! ## The steps to a commit -/

/-- An update waits, and the step that commits it is the n-th from here: the row advance onto row 0 (40_led.md R108). -/
inductive State.Awaits (s : State) (n : Nat) : Prop where
  | rowCycle (hm : s.mode = .rowCycle) (hu : s.pendingUpdate = true) (hn : n = 3 - s.row.val)
  | bitPlane {k : Fin 8} (hm : s.mode = .bitPlane) (hk : s.mask = 1#8 <<< k.val) (hu : s.pendingUpdate = true)
      (hn : n = (8 - k.val) + 8 * (2 - s.row.val))

/-- The row advance that does not reach row 0 leaves the buffers. -/
theorem State.rowAdvance_of_row_lt_two {s : State} (h : s.row.val < 2) :
    s.rowAdvance.row.val = s.row.val + 1 ∧ s.SameUpdate s.rowAdvance := by
  have hval : (s.row + 1).val = s.row.val + 1 := by rw [Fin.val_add]; omega
  have hne : ¬(s.row + 1 = 0 ∧ s.pendingUpdate = true) := fun hc => by simp [hc.1] at hval
  rw [State.rowAdvance_eq]
  exact ⟨hval, if_neg hne, if_neg hne⟩

/-- The row advance from row 2 commits the update that waits. -/
theorem State.rowAdvance_of_row_two {s : State} (h : s.row.val = 2) (hu : s.pendingUpdate = true) :
    s.rowAdvance.row = 0 ∧ s.rowAdvance.active = s.pending ∧ s.rowAdvance.pendingUpdate = false := by
  have hrow : s.row + 1 = 0 := by omega
  rw [State.rowAdvance_eq]
  exact ⟨hrow, if_pos ⟨hrow, hu⟩, if_pos ⟨hrow, hu⟩⟩

/-- The rotation wraps exactly from plane 7. -/
theorem rotl8_shift_eq_one_iff : ∀ k : Fin 8, rotl8 (1#8 <<< k.val) = 0x01 ↔ k = 7 := by decide

/-- A step before the last comes one closer to the commit and leaves the buffers. -/
theorem State.Awaits.step1 {s : State} {n : Nat} (h : s.Awaits (n + 2)) :
    s.step1.Awaits (n + 1) ∧ s.SameUpdate s.step1 := by
  cases h with
  | rowCycle hm hu hn =>
    obtain ⟨hrow, hactive, hupdate⟩ := State.rowAdvance_of_row_lt_two (s := s) (by omega)
    have hrow' : s.step1.row.val = s.row.val + 1 := by rw [State.step1_rowCycle hm]; exact hrow
    have hsame : s.SameUpdate s.step1 := by rw [State.step1_rowCycle hm]; exact ⟨hactive, hupdate⟩
    exact ⟨.rowCycle ((s.steps_mode 1).trans hm) (hsame.2.trans hu) (by omega), hsame⟩
  | @bitPlane k hm hk hu hn =>
    have hk' : s.step1.mask = 1#8 <<< (k + 1).val := by rw [State.step1_mask_of_bitPlane hm, hk, rotl8_shift]
    by_cases h7 : k = 7
    · have hw : rotl8 s.mask = 0x01 := by rw [hk, rotl8_shift_eq_one_iff, h7]
      subst h7
      have hlt : s.row.val < 2 := by omega
      obtain ⟨hrow, hactive, hupdate⟩ := State.rowAdvance_of_row_lt_two (s := s.rotateMask) hlt
      have hrow' : s.step1.row.val = s.row.val + 1 := by
        rw [State.step1_bitPlane hm, State.stepBitPlane_of_wrap hw]; exact hrow
      have hsame : s.SameUpdate s.step1 := by
        rw [State.step1_bitPlane hm, State.stepBitPlane_of_wrap hw]; exact ⟨hactive, hupdate⟩
      exact ⟨.bitPlane ((s.steps_mode 1).trans hm) hk' (hsame.2.trans hu) (by omega), hsame⟩
    · have hw : rotl8 s.mask ≠ 0x01 := by rwa [hk, ne_eq, rotl8_shift_eq_one_iff]
      have hstep : s.step1 = _ := (State.step1_bitPlane hm).trans (State.stepBitPlane_of_not_wrap hw)
      have hsame : s.SameUpdate s.step1 := by rw [hstep]; exact ⟨rfl, rfl⟩
      have hrow' : s.step1.row = s.row := by rw [hstep]
      refine ⟨.bitPlane ((s.steps_mode 1).trans hm) hk' (hsame.2.trans hu) ?_, hsame⟩
      rw [hrow']
      omega

/-- The last of the steps commits. -/
theorem State.Awaits.commits {s : State} (h : s.Awaits 1) :
    s.step1.row = 0 ∧ s.step1.active = s.pending ∧ s.step1.pendingUpdate = false := by
  cases h with
  | rowCycle hm hu hn =>
    rw [State.step1_rowCycle hm]
    exact State.rowAdvance_of_row_two (s := s) (by omega) hu
  | @bitPlane k hm hk hu hn =>
    have hw : rotl8 s.mask = 0x01 := by rw [hk, rotl8_shift_eq_one_iff]; omega
    rw [State.step1_bitPlane hm, State.stepBitPlane_of_wrap hw]
    exact State.rowAdvance_of_row_two (s := s.rotateMask) (show s.row.val = 2 by omega) hu

theorem State.Awaits.pos {s : State} {n : Nat} (h : s.Awaits n) : 1 ≤ n ∧ n ≤ 24 := by
  cases h <;> omega

theorem State.Awaits.pendingUpdate {s : State} {n : Nat} (h : s.Awaits n) : s.pendingUpdate = true := by
  cases h with
  | rowCycle _ hu => exact hu
  | bitPlane _ _ hu => exact hu

/-- With no update pending the steps change neither the active buffer nor the flag. -/
theorem State.sameUpdate_steps {s : State} (hu : s.pendingUpdate = false) (n : Nat) :
    s.SameUpdate (State.steps n s) := by
  refine State.steps_keep (P := s.SameUpdate) (fun u h => ?_) n ⟨rfl, rfl⟩
  obtain ⟨ha, hf⟩ := h
  obtain ⟨-, ⟨ha', hf'⟩ | ⟨hu', -, -⟩⟩ := u.commitsAtMost_step1
  · exact ⟨ha'.trans ha, hf'.trans hf⟩
  · simp [hf, hu] at hu'

/-- The active buffer and the waiting update stand up to the n-th step, which lands on row 0; from then on the active
buffer is the pending one (40_led.md R108). -/
theorem State.Awaits.fullScan {s : State} {n : Nat} (h : s.Awaits n) :
    (∀ m, m < n → (State.steps m s).active = s.active ∧ (State.steps m s).pendingUpdate = true) ∧
    (State.steps n s).row = 0 ∧
    ∀ m, n ≤ m → (State.steps m s).pendingUpdate = false ∧ (State.steps m s).active = s.pending := by
  have hfirst := h.pendingUpdate
  induction n generalizing s with
  | zero => exact absurd h.pos.1 (by decide)
  | succ n ih =>
    cases n with
    | zero =>
      obtain ⟨hrow, hactive, hupdate⟩ := h.commits
      refine ⟨fun m hm => ?_, hrow, fun m hm => ?_⟩
      · obtain rfl : m = 0 := by omega
        exact ⟨rfl, hfirst⟩
      · obtain ⟨m, rfl⟩ := Nat.exists_eq_add_of_le' hm
        obtain ⟨ha, hu⟩ := State.sameUpdate_steps hupdate m
        exact ⟨hu.trans hupdate, ha.trans hactive⟩
    | succ n =>
      obtain ⟨hnext, hactive, -⟩ := h.step1
      obtain ⟨hbefore, hrow, hafter⟩ := ih hnext hnext.pendingUpdate
      have hpending : s.step1.pending = s.pending := s.commitsAtMost_step1.1
      refine ⟨fun m hm => ?_, hrow, fun m hm => ?_⟩
      · cases m with
        | zero => exact ⟨rfl, hfirst⟩
        | succ m =>
          obtain ⟨ha, hu⟩ := hbefore m (by omega)
          exact ⟨ha.trans hactive, hu⟩
      · obtain ⟨m, rfl⟩ := Nat.exists_eq_add_of_le' (by omega : 1 ≤ m)
        obtain ⟨hu, ha⟩ := hafter m (by omega)
        exact ⟨hu, ha.trans hpending⟩

/-! ## Full scans of a submitted image -/

/-- The buffer shows the image at its mapped cells and, where unmapped cells were dark, 0 at every other. -/
theorem cell_submit_pending (s : State) :
    (∀ k : Fin 25, cell s.submit.pending s.cfg.map[k].1 s.cfg.map[k].2 = s.img[k]) ∧
    (s.UnmappedDark → ∀ (pr : Fin 3) (pc : Fin 9), (∀ k : Fin 25, s.cfg.map[k] ≠ (pr, pc)) →
      cell s.submit.pending pr pc = 0) := by
  refine ⟨cell_mapImage_mapped s.cfg s.img s.pending, fun hd pr pc hn => ?_⟩
  have hunmapped (k : Fin 25) : mappedIndex s.cfg k ≠ cellIndex pr pc := fun hk => by
    obtain ⟨hrow, hcol⟩ := cellIndex_injective hk
    exact hn k (Prod.ext hrow hcol)
  obtain ⟨hdark, -⟩ := hd _ hunmapped
  exact (cell_mapImage_of_unmapped s.cfg s.img s.pending hn).trans hdark

/-- A submitted image is shown from the step on that its commit is due at. -/
theorem State.Awaits.submitted {s : State} {n : Nat} (h : s.submit.Awaits n) :
    (∀ m, m < n → (State.steps m s.submit).active = s.active ∧ (State.steps m s.submit).pendingUpdate = true) ∧
    (State.steps n s.submit).row = 0 ∧
    ∀ m, n ≤ m →
      (State.steps m s.submit).pendingUpdate = false ∧
      (∀ k : Fin 25, cell (State.steps m s.submit).active s.cfg.map[k].1 s.cfg.map[k].2 = s.img[k]) ∧
      (s.UnmappedDark → ∀ (pr : Fin 3) (pc : Fin 9), (∀ k : Fin 25, s.cfg.map[k] ≠ (pr, pc)) →
        cell (State.steps m s.submit).active pr pc = 0) := by
  obtain ⟨hbefore, hrow, hafter⟩ := h.fullScan
  refine ⟨hbefore, hrow, fun m hm => ?_⟩
  obtain ⟨hu, ha⟩ := hafter m hm
  rw [ha]
  exact ⟨hu, cell_submit_pending s⟩

theorem eq_submit_of_exec {s t : State} (hs : s.halted = false) (h : exec .ledSubmit s = .next t) : t = s.submit := by
  cases execEffect_of_exec h with
  | ignored hs' => simp [hs] at hs'
  | ledSubmit => rfl

/-- Settles O23: the commit is due when the mask has wrapped and the rows up to the last have passed. -/
theorem bitPlaneFullScan : Obligations.BitPlaneFullScan := by
  intro s t k hs hm hk h
  obtain rfl := eq_submit_of_exec hs h
  have hawaits : s.submit.Awaits ((8 - k.val) + 8 * (2 - s.row.val)) := .bitPlane hm hk rfl rfl
  exact ⟨_, rfl, hawaits.pos.2, hawaits.submitted⟩

/-- Settles O24: the commit is due when the rows up to the last have passed. -/
theorem rowCycleFullScan : Obligations.RowCycleFullScan := by
  intro s t hs hm h
  obtain rfl := eq_submit_of_exec hs h
  have hawaits : s.submit.Awaits (3 - s.row.val) := .rowCycle hm rfl rfl
  exact ⟨_, rfl, Nat.sub_le 3 _, hawaits.submitted⟩

end Sys2Proof.Machine
end

section
/-! PROOF. The planes an activation ends on under the source's dwell table, and the first pass after reset
(70_reset_and_hazards.md R176, R177). -/

namespace Sys2Proof.Machine

/-! ## The last step -/

theorem State.steps_succ (n : Nat) (s : State) : State.steps (n + 1) s = (State.steps n s).step1 := by
  induction n generalizing s with
  | zero => rfl
  | succ n ih => exact ih s.step1

/-- A bit-plane step drives the columns from the cursor that it lands on (40_led.md R93, R95). -/
theorem State.step1_colAct_of_bitPlane {s : State} (hm : s.mode = .bitPlane) :
    s.step1.colAct = planeColumns s.step1.active s.step1.row s.step1.mask := by
  rw [State.step1_bitPlane hm]
  rfl

/-- In bit-plane mode an activation ends on a plane with a nonzero dwell, its columns driven from that plane. -/
theorem State.activation_of_bitPlane {s t : State} (hm : s.mode = .bitPlane) (h : s.activation = some t) :
    (∃ k : Fin 8, t.mask = 1#8 <<< k.val ∧ dwell s.cfg k (k == 0) ≠ 0) ∧
      t.colAct = planeColumns t.active t.row t.mask := by
  obtain ⟨n, d, hn, -, hd, hdelay, rfl⟩ := State.activation_spec h
  obtain ⟨n, rfl⟩ := Nat.exists_eq_add_of_le' hn
  have hmode : (State.steps (n + 1) s).mode = .bitPlane := (s.steps_mode _).trans hm
  have hone : oneHot (State.steps (n + 1) s).mask = true := by
    cases ho : ctz8 (State.steps (n + 1) s).mask with
    | some k => rw [oneHot, ho]; rfl
    | none => rw [State.stepDelay, hmode, ho] at hdelay; cases hdelay
  obtain ⟨k, hk⟩ := (oneHot_iff _).mp hone
  rw [State.stepDelay_of_plane hmode hk, s.steps_cfg] at hdelay
  refine ⟨⟨k, hk, fun hzero => hd ?_⟩, ?_⟩
  · exact (Option.some.inj hdelay).symm.trans hzero
  · have hcols := State.step1_colAct_of_bitPlane ((s.steps_mode n).trans hm)
    rw [← State.steps_succ] at hcols
    exact hcols

/-! ## The source's table -/

/-- The source's table dwells on planes 3 to 7 only. -/
theorem three_le_of_sourceDwell_ne_zero : ∀ k : Fin 8, sourceDwell[k] ≠ 0 → 3 ≤ k.val := by decide

/-- The masks of planes 3 to 7 are none of 0x01, 0x02, 0x04 and lie under 0xF8. -/
theorem mask_of_high_plane : ∀ k : Fin 8, 3 ≤ k.val →
    1#8 <<< k.val ∉ [0x01#8, 0x02#8, 0x04#8] ∧ 1#8 <<< k.val = 0xF8 &&& 1#8 <<< k.val := by decide

/-- Settles O32: the activation ends on a plane that dwells, so on one of planes 3 to 7. -/
theorem zeroDwellPlanesNeverStay : Obligations.ZeroDwellPlanesNeverStay := by
  intro s t hm hdwell hwrap hs h
  rw [exec_ledStep hs] at h
  obtain ⟨⟨k, hk, hne⟩, hcols⟩ := State.activation_of_bitPlane hm (State.activate_next h)
  rw [dwell_of_no_override hwrap, hdwell] at hne
  obtain ⟨hlow, hhigh⟩ := mask_of_high_plane k (three_le_of_sourceDwell_ne_zero k hne)
  rw [← hk] at hlow hhigh
  refine ⟨hlow, fun c hc => ?_⟩
  have hdark : cell t.active t.row c &&& t.mask = 0 := by
    calc cell t.active t.row c &&& t.mask
      _ = cell t.active t.row c &&& 0xF8 &&& t.mask := by rw [BitVec.and_assoc, ← hhigh]
      _ = 0 := by rw [hc]; exact BitVec.zero_and
  rw [hcols]
  simp [hdark]

/-! ## The first pass after reset -/

/-- The row and its lines stand until the mask has passed plane 7 (40_led.md R93). -/
theorem State.steps_row_of_plane {s : State} {k : Fin 8} (hm : s.mode = .bitPlane) (hk : s.mask = 1#8 <<< k.val)
    (n : Nat) (hn : k.val + n ≤ 7) : (State.steps n s).row = s.row ∧ (State.steps n s).rowAct = s.rowAct := by
  induction n with
  | zero => exact ⟨rfl, rfl⟩
  | succ n ih =>
    obtain ⟨hrow, hlines⟩ := ih (by omega)
    have hw : rotl8 (State.steps n s).mask ≠ 0x01 := by
      rw [State.steps_mask_of_plane n hm hk, ne_eq, rotl8_shift_eq_one_iff]
      intro h7
      have h7 := congrArg Fin.val h7
      simp only [Fin.val_add, Fin.val_ofNat] at h7
      omega
    rw [State.steps_succ, State.step1_bitPlane ((s.steps_mode n).trans hm), State.stepBitPlane_of_not_wrap hw]
    exact ⟨hrow, hlines⟩

/-- Settles O33: the first 7 steps stay within row 0, and the row advance comes with the 8th. -/
theorem firstPassAfterReset : Obligations.FirstPassAfterReset := by
  intro c
  have hpass (m : Nat) (hm : m ≤ 7) :
      (State.steps m (State.resetWith c)).row = 0 ∧
        (State.steps m (State.resetWith c)).rowAct = Vector.replicate 3 false :=
    State.steps_row_of_plane (s := State.resetWith c) (k := 0) rfl rfl m (by omega)
  refine ⟨fun m hm => (hpass m hm).2, ?_, ?_⟩
  · obtain ⟨hrow, hlines⟩ := hpass 7 le_rfl
    have hmode : (State.steps 7 (State.resetWith c)).mode = .bitPlane := State.steps_mode 7 _
    have hmask : (State.steps 7 (State.resetWith c)).mask = 0x80 :=
      State.steps_mask_of_plane (s := State.resetWith c) (p := 0) 7 rfl rfl
    have hw : rotl8 (State.steps 7 (State.resetWith c)).mask = 0x01 := by rw [hmask]; rfl
    rw [State.steps_succ, State.step1_bitPlane hmode, State.stepBitPlane_of_wrap hw, State.rowAdvance_eq]
    simp only [State.drivePlane_fields, State.rotateMask_fields, hrow, hlines]
    rfl
  · rw [State.step1_rowCycle rfl, State.stepRowCycle, State.rowAdvance_eq]
    rfl

end Sys2Proof.Machine
end

section
/-! PROOF. A frame on its way to the host, the receiver that keeps listening, and the commands that record an error
(41_radio.md R114 to R124, 60_exceptions.md R141 to R143). -/

namespace Sys2Proof.Machine

/-! ## A frame on its way to the host -/

/-- A frame has at least one byte and the buffer at least 32, so the declared length is always stored
(41_radio.md R114). -/
theorem keptLength_pos (c : Config) (f : Frame) : 0 < keptLength c f := by
  have hlen : 0 < f.bytes.length := Nat.succ_pos _
  have hcap : 0 < c.rxCap := by obtain h | h := Config.rxCap_cases c <;> omega
  exact lt_min hlen hcap

theorem storeFrame_rxbuf_zero (s : State) (f : Frame) : (s.storeFrame f).rxbuf[0] = f.declared :=
  storeBytes_of_lt_length (b := f.bytes) s.rxbuf (i := 0) (keptLength_pos s.cfg f) (Nat.succ_pos _)

/-- A length that fits P_RX_CAP fits a word. -/
theorem toNat_ofNat_copyLength (c : Config) (declared : Byte) :
    (BitVec.ofNat 32 (copyLength c declared)).toNat = copyLength c declared := by
  have hle := copyLength_le c declared
  rw [BitVec.toNat_ofNat]
  omega

/-- RX_LEN once a stored frame is taken (41_radio.md R118). -/
theorem takeFrame_storeFrame_rxLen (s : State) (f : Frame) :
    (s.storeFrame f).takeFrame.rxLen.toNat = copyLength s.cfg f.declared := by
  have hlen : (s.storeFrame f).takeFrame.rxLen = BitVec.ofNat 32 (copyLength s.cfg (s.storeFrame f).rxbuf[0]) := rfl
  rw [hlen, storeFrame_rxbuf_zero, toNat_ofNat_copyLength]

/-- RXDATA once a stored frame is taken: the frame's own bytes, the receive buffer's earlier bytes past its end, and the
host's earlier copy past the copy length (70_reset_and_hazards.md R179). -/
theorem takeFrame_storeFrame_rxdata (s : State) (f : Frame) :
    (∀ i : Fin 64, i.val < copyLength s.cfg f.declared → ∀ h : i.val < f.bytes.length,
      (s.storeFrame f).takeFrame.rxdata[i] = f.bytes[i.val]) ∧
    (∀ i : Fin 64, i.val < copyLength s.cfg f.declared → f.bytes.length ≤ i.val →
      (s.storeFrame f).takeFrame.rxdata[i] = s.rxbuf[i]) ∧
    ∀ i : Fin 64, copyLength s.cfg f.declared ≤ i.val →
      (s.storeFrame f).takeFrame.rxdata[i] = s.rxdata[i] := by
  have hdata : (s.storeFrame f).takeFrame.rxdata =
      copyFirst (copyLength s.cfg (s.storeFrame f).rxbuf[0]) (storeBytes (keptLength s.cfg f) f.bytes s.rxbuf)
        s.rxdata := rfl
  rw [hdata, storeFrame_rxbuf_zero]
  refine ⟨fun i hi h => ?_, fun i hi h => ?_, fun i hi => copyFirst_of_le _ _ hi⟩
  · have hcap : i.val < s.cfg.rxCap := hi.trans_le (Nat.min_le_right _ _)
    exact (copyFirst_of_lt _ _ hi).trans (storeBytes_of_lt_length s.rxbuf (lt_min h hcap) h)
  · have hkept : keptLength s.cfg f ≤ i.val := (Nat.min_le_left _ _).trans h
    exact (copyFirst_of_lt _ _ hi).trans (storeBytes_of_le f.bytes s.rxbuf hkept)

/-- Settles O40: the frame is stored and then taken. -/
theorem deliveredFrameReachesHost : Obligations.DeliveredFrameReachesHost := by
  intro s f hs hrx hbase hgroup hcrc
  refine ⟨s.storeFrame f, (s.storeFrame f).takeFrame, perform_frame_of_accepts ⟨hs, hrx, hbase, hgroup⟩, rfl, hcrc,
    ?_, takeFrame_storeFrame_rxLen s f, rfl, rfl, ?_⟩
  · rw [exec_radioReceive (s := s.storeFrame f) hs, State.receive_of_good_frame (s := s.storeFrame f) rfl hcrc]
  · rw [takeFrame_storeFrame_rxLen]
    exact takeFrame_storeFrame_rxdata s f

/-! ## Listening -/

theorem State.Listening.tick {s t : State} (hl : s.Listening) (h : s.tick = .next t) : t.Listening := by
  obtain ⟨-, rfl⟩ | ⟨-, -, rfl⟩ | ⟨-, -, ha⟩ := State.tick_next_cases h
  · exact hl
  · exact hl
  · rw [State.activation_frame ha]
    exact hl

/-- A frame is lost, or completes with the line asserted where its interrupt is enabled. -/
theorem State.Listening.deliver {s : State} (hl : s.Listening) (hi : s.intenEnd = true) (f : Frame) :
    (s.deliver f).Listening := by
  obtain hd | ⟨hs, -, -, -, hd⟩ := s.deliver_cases f <;> rw [hd]
  · exact hl
  · obtain ⟨-, hconf, -⟩ := hl
    have hirq : (s.storeFrame f).irqRadioEnd = true := hi
    exact ⟨hs, hconf, .inr ⟨rfl, hirq⟩⟩

/-- RADIO_RECEIVE of a completed frame clears END and leaves the receiver configured and the block running. -/
theorem State.receive_of_frame {s : State} (he : s.radioEnd = true) :
    s.receive.halted = s.halted ∧ s.receive.radioConfigured = s.radioConfigured ∧ s.receive.radioEnd = false := by
  obtain ⟨he', -⟩ | ⟨-, -, h⟩ | ⟨-, -, h⟩ := s.receive_cases
  · simp [he] at he'
  · rw [h]; exact ⟨rfl, rfl, rfl⟩
  · rw [h]; exact ⟨rfl, rfl, rfl⟩

/-- Settles O43: a tick leaves the receiver alone, a frame completes it, and taking the frame makes it ready to arm. -/
theorem listeningIsKept : Obligations.ListeningIsKept := by
  refine ⟨fun s t hl h => hl.tick h, fun s t f hl hi h => ?_, fun s hl he => ?_⟩
  · cases h
    exact hl.deliver hi f
  · obtain ⟨hs, hconf, -⟩ := hl
    obtain ⟨hs', hconf', hend⟩ := State.receive_of_frame he
    rw [hs] at hs'
    rw [hconf] at hconf'
    refine ⟨s.receive, { s.receive with radioRx := true, intenEnd := true }, exec_radioReceive hs, ?_,
      ⟨hs', hconf', .inl rfl⟩, rfl, rfl⟩
    rw [exec_radioStartRx hs', State.startReceive_of_ready hconf' hend]

/-! ## What changes the error record -/

/-- Settles O45, command by command: the others leave the record as it is. -/
theorem onlyErrorsChangeErr : Obligations.OnlyErrorsChangeErr := by
  intro i s t h hne
  cases execEffect_of_exec h with
  | ignored => exact absurd rfl hne
  | ledSubmit => exact absurd rfl hne
  | ledClear => exact absurd rfl hne
  | ledStep _ ha =>
    rw [State.activation_frame ha] at hne
    exact absurd rfl hne
  | @radioConfigure group hs =>
    obtain ⟨hrx, hc⟩ | ⟨-, hc⟩ := s.configureRadio_cases group <;> rw [hc] at hne ⊢
    · exact ⟨hs, .inr (.inl ⟨⟨group, rfl⟩, hrx, rfl⟩)⟩
    · exact absurd rfl hne
  | radioStartRx hs =>
    obtain ⟨hconf, hc⟩ | ⟨hconf, hend, hc⟩ | ⟨-, -, hc⟩ := s.startReceive_cases <;> rw [hc] at hne ⊢
    · exact ⟨hs, .inr (.inr (.inl ⟨rfl, hconf, rfl⟩))⟩
    · exact ⟨hs, .inr (.inr (.inr (.inl ⟨rfl, hconf, hend, rfl⟩)))⟩
    · exact absurd rfl hne
  | radioReceive hs =>
    obtain ⟨hend, hc⟩ | ⟨-, -, hc⟩ | ⟨-, -, hc⟩ := s.receive_cases <;> rw [hc] at hne ⊢
    · exact ⟨hs, .inr (.inr (.inr (.inr ⟨rfl, hend, rfl⟩)))⟩
    · exact absurd rfl hne
    · exact absurd rfl hne
  | errClear hs => exact ⟨hs, .inl ⟨rfl, rfl⟩⟩

end Sys2Proof.Machine
end

section
/-! PROOF. The host's interrupts: which handler starts, what that changes, and which requests wait (60_exceptions.md
R147 to R154; the model's host, log 7). -/

namespace Sys2Proof.Machine

theorem perform_takeIrq (s : State) (src : IrqSource) : perform (.host (.takeIrq src)) s = .next (s.takeIrq src) := rfl

/-! ## Where no handler starts, and where one does -/

theorem State.takeIrq_of_critical {s : State} (src : IrqSource) (h : s.hostCritical = true) : s.takeIrq src = s := by
  obtain h' | ⟨hc, -⟩ := s.takeIrq_cases src
  · exact h'
  · simp [h] at hc

/-- The radio's handler starts only while the line is asserted (60_exceptions.md R147). -/
theorem State.takeIrq_of_deasserted {s : State} (h : s.irqRadioEnd = false) : s.takeIrq .radioFrameComplete = s := by
  obtain h' | ⟨-, hn, -⟩ := s.takeIrq_cases .radioFrameComplete
  · exact h'
  · obtain ⟨hm, -⟩ := State.nextIrq_mem hn
    simp [s.radio_mem_requests, h] at hm

theorem State.takeIrq_of_next {s : State} {src : IrqSource} (hc : s.hostCritical = false) (hn : s.nextIrq = some src)
    (hy : s.yieldsTo src = true) :
    s.takeIrq src = { s with hostHandlers := src :: s.hostHandlers, hostRequests := s.requestsAfter src } :=
  if_pos (by simp [hc, hn, hy])

/-- A lone request of the main program is the next one. -/
theorem State.nextIrq_of_lone {s : State} {src : IrqSource} (hh : s.hostHandlers = []) (hr : s.requests = [src]) :
    s.nextIrq = some src := by
  simp [State.nextIrq, hh, hr, mostUrgent]

/-- A lone device's request is served once its handler has started, the radio's stands (60_exceptions.md R149). -/
theorem State.requestsAfter_of_lone {s : State} {src : IrqSource} (hr : s.requests = [src]) :
    s.requestsAfter src = if src = .radioFrameComplete then [.radioFrameComplete] else [] := by
  unfold State.requestsAfter
  split
  · next h => rw [hr, h]
  · simp [hr]

/-- Settles O59, by whether the handler may start; a lone request of the main program always may. -/
theorem takingAnInterruptChangesNoBlockState : Obligations.TakingAnInterruptChangesNoBlockState := by
  refine fun s src => ⟨⟨_, perform_takeIrq s src, ?_⟩, fun hc => ?_, fun hsrc hl => ?_, fun hh hc hr => ?_⟩
  · obtain ⟨_, _, hf⟩ := s.takeIrq_frame src
    rw [hf]
  · rw [perform_takeIrq, State.takeIrq_of_critical src hc]
  · subst hsrc
    rw [perform_takeIrq, State.takeIrq_of_deasserted hl]
  · have hy : s.yieldsTo src = true := by rw [State.yieldsTo, hh]
    rw [perform_takeIrq, State.takeIrq_of_next hc (State.nextIrq_of_lone hh hr) hy, hh, State.requestsAfter_of_lone hr]

/-! ## Priority and occurrence -/

/-- The running context gives way exactly to a source that outranks its innermost handler, if it has one. -/
theorem State.yieldsTo_iff {s : State} {src : IrqSource} :
    s.yieldsTo src = true ↔ ∀ top ∈ s.hostHandlers.head?, irqPriority s.cfg top < irqPriority s.cfg src := by
  unfold State.yieldsTo
  cases s.hostHandlers <;> simp

/-- A split of the kept elements of a list comes from a split of the list. -/
theorem exists_split_of_filter_eq {α : Type} {p : α → Bool} {l before after : List α} {x : α}
    (h : l.filter p = before ++ x :: after) :
    ∃ before' after', l = before' ++ x :: after' ∧ before'.filter p = before ∧ after'.filter p = after := by
  obtain ⟨l₁, l₂, rfl, h₁, h₂⟩ := List.filter_eq_append_iff.mp h
  obtain ⟨l₃, l₄, rfl, hnone, -, h₄⟩ := List.filter_eq_cons_iff.mp h₂
  refine ⟨l₁ ++ l₃, l₄, by simp, ?_, h₄⟩
  rw [List.filter_append, h₁, List.filter_eq_nil_iff.mpr hnone, List.append_nil]

/-- The handler that may start is that of a waiting request; among those whose handlers are not running none before it
is as urgent and none after it more urgent (60_exceptions.md R154). -/
theorem State.nextIrq_spec {s : State} {src : IrqSource} (h : s.nextIrq = some src) :
    ∃ before after, s.requests = before ++ src :: after ∧
      (∀ r ∈ before, r ∉ s.hostHandlers → irqPriority s.cfg r < irqPriority s.cfg src) ∧
      ∀ r ∈ after, r ∉ s.hostHandlers → irqPriority s.cfg r ≤ irqPriority s.cfg src := by
  obtain ⟨before, after, hl, hb, ha⟩ := mostUrgent_spec h
  obtain ⟨before', after', hr, rfl, rfl⟩ := exists_split_of_filter_eq hl
  refine ⟨before', after', hr, fun r hm hn => hb r ?_, fun r hm hn => ha r ?_⟩
  · simpa using ⟨hm, hn⟩
  · simpa using ⟨hm, hn⟩

/-- A handler started: it is the next one, and the running context gave way to it. -/
theorem State.takeIrq_started {s : State} {src : IrqSource} (h : (s.takeIrq src).hostHandlers ≠ s.hostHandlers) :
    s.hostCritical = false ∧ s.nextIrq = some src ∧ s.yieldsTo src = true ∧
      (s.takeIrq src).hostHandlers = src :: s.hostHandlers := by
  obtain h' | ⟨hc, hn, hy, h'⟩ := s.takeIrq_cases src
  · exact absurd (congrArg State.hostHandlers h') h
  · exact ⟨hc, hn, hy, congrArg State.hostHandlers h'⟩

/-- Where a request waits whose handler is not running, the next handler is at least as urgent. -/
theorem State.exists_nextIrq {s : State} {r : IrqSource} (hr : r ∈ s.requests) (hn : r ∉ s.hostHandlers) :
    ∃ src, s.nextIrq = some src ∧ irqPriority s.cfg r ≤ irqPriority s.cfg src := by
  have hm : r ∈ s.requests.filter fun q => !s.hostHandlers.contains q := by simpa using ⟨hr, hn⟩
  obtain ⟨src, hsrc⟩ := Option.isSome_iff_exists.mp (mostUrgent_isSome (c := s.cfg) (List.ne_nil_of_mem hm))
  obtain ⟨before, after, hl, hb, ha⟩ := mostUrgent_spec hsrc
  refine ⟨src, hsrc, ?_⟩
  rw [hl, List.mem_append, List.mem_cons] at hm
  obtain hm | rfl | hm := hm
  · exact (hb r hm).le
  · exact le_rfl
  · exact ha r hm

/-! ## The waiting requests -/

theorem State.request_of_waiting {s : State} {src : IrqSource} (h : src ∈ s.requests) : s.request src = s :=
  if_pos (.inr h)

theorem State.request_of_new {s : State} {src : IrqSource} (hd : src ≠ .radioFrameComplete) (h : src ∉ s.requests) :
    s.request src = { s with hostRequests := s.requests ++ [src] } :=
  if_neg (by simp [hd, h])

/-- Noting the radio's line moves no device's request. -/
theorem State.requests_filter_device (s : State) :
    s.requests.filter (· != .radioFrameComplete) = s.hostRequests.filter (· != .radioFrameComplete) := by
  cases h : s.irqRadioEnd with
  | false => simp [State.requests_of_deasserted h]
  | true =>
    by_cases hn : .radioFrameComplete ∈ s.hostRequests
    · rw [State.requests_of_asserted_known h hn]
    · simp [State.requests_of_asserted_new h hn]

/-- Settles O60: the handler that starts is the next one, there is one where a request outranks the running context, and
the requests keep their order. -/
theorem handlersStartByPriorityAndOccurrence : Obligations.HandlersStartByPriorityAndOccurrence := by
  refine ⟨fun s t src h hne => ?_, fun s hc hex => ?_, fun s src hd => ⟨fun hm => ?_, fun hm => ?_⟩, fun s =>
    ⟨s.radio_mem_requests, s.requests_filter_device, fun hn hl => State.requests_of_asserted_new hl hn⟩⟩
  · cases h
    obtain ⟨hc, hn, hy, hh⟩ := State.takeIrq_started hne
    exact ⟨hc, (State.nextIrq_mem hn).2, hh, State.yieldsTo_iff.mp hy, State.nextIrq_spec hn⟩
  · obtain ⟨r, hr, hnr, hrank⟩ := hex
    obtain ⟨src, hn, hle⟩ := State.exists_nextIrq hr hnr
    have hy : s.yieldsTo src = true := State.yieldsTo_iff.mpr fun top htop => (hrank top htop).trans_le hle
    exact ⟨src, _, perform_takeIrq s src, by rw [State.takeIrq_of_next hc hn hy]⟩
  · exact congrArg _ (State.request_of_waiting hm)
  · exact congrArg _ (State.request_of_new hd hm)

end Sys2Proof.Machine
end

section
/-! PROOF. Which configurations are legal (00_scope.md R7 to R9, 20_memory.md R51). -/

namespace Sys2Proof

theorem Params.mapInjective_iff (p : Params) :
    p.mapInjective = true ↔ ∀ k k' : Fin 25, p.map[k] = p.map[k'] → k = k' := by
  rw [Params.mapInjective, decide_eq_true_iff, List.nodup_iff_injective_getElem]
  constructor
  · intro hinj k k' hk
    have hval := @hinj ⟨k.val, by simp⟩ ⟨k'.val, by simp⟩ (by simpa using hk)
    exact Fin.ext (Fin.mk.inj hval)
  · intro hinj i j hij
    have hi : i.val < 25 := by simpa using i.isLt
    have hj : j.val < 25 := by simpa using j.isLt
    have hval := hinj ⟨i.val, hi⟩ ⟨j.val, hj⟩ (by simpa using hij)
    exact Fin.ext (Fin.mk.inj hval)

/-- The tail of the dwell table is planes 1 to 7. -/
theorem Params.mem_dwell_tail_iff (p : Params) (d : Word) :
    d ∈ p.dwell.toList.tail ↔ ∃ k : Fin 8, k ≠ 0 ∧ p.dwell[k] = d := by
  rw [List.mem_iff_getElem]
  constructor
  · rintro ⟨i, hi, rfl⟩
    have hi7 : i < 7 := by simpa using hi
    exact ⟨⟨i + 1, by omega⟩, fun h => by simpa using congrArg Fin.val h, by simp⟩
  · rintro ⟨k, hk, rfl⟩
    obtain ⟨i, hi⟩ := Nat.exists_eq_succ_of_ne_zero (n := k.val) fun h => hk (Fin.ext h)
    exact ⟨i, by simp; omega, by simp [hi]⟩

theorem Params.someDwell_iff (p : Params) :
    p.someDwell = true ↔ p.wrapDelay.getD p.dwell[0] ≠ 0 ∨ ∃ k : Fin 8, k ≠ 0 ∧ p.dwell[k] ≠ 0 := by
  have htail : (∃ d ∈ p.dwell.toList.tail, d ≠ 0) ↔ ∃ k : Fin 8, k ≠ 0 ∧ p.dwell[k] ≠ 0 := by
    simp only [Params.mem_dwell_tail_iff]
    constructor
    · rintro ⟨_, ⟨k, hk, rfl⟩, hne⟩
      exact ⟨k, hk, hne⟩
    · rintro ⟨k, hk, hne⟩
      exact ⟨_, ⟨k, hk, rfl⟩, hne⟩
  simp only [Params.someDwell, Params.wrapDwell, Bool.or_eq_true, bne_iff_ne, List.any_eq_true, htail]

/-- The parameters become themselves as a configuration, exactly where they are legal. -/
theorem Params.check_eq_ok_iff (p : Params) : (∃ c : Config, p.check = .ok c ∧ c.toParams = p) ↔ p.wf = true := by
  constructor
  · rintro ⟨c, -, rfl⟩
    exact c.legal
  · intro h
    exact ⟨⟨p, h⟩, dif_pos h, rfl⟩

/-- Settles O58, rule by rule. -/
theorem illegalConfigurationsAreRefused : Obligations.IllegalConfigurationsAreRefused := by
  intro p
  rw [Params.check_eq_ok_iff, ← Params.mapInjective_iff, ← Params.someDwell_iff]
  simp [Params.wf, Params.rowPeriodPositive, Params.rxCapLegal, Params.rxCopyAdjLegal, Params.blockBaseAligned,
    and_assoc]

end Sys2Proof
end

section
/-! PROOF. The invariants: each group of them is kept by the operations that touch its fields, so by every event and
every step; and with them a step stops only on a bus error (10_state.md R22, R32, R45; 40_led.md R91, R106 to R108;
41_radio.md R110; 60_exceptions.md R141, R145, R151). -/

namespace Sys2Proof.Machine

/-! ## Four groups of invariants, by the operations that touch their fields -/

/-- The invariants of the cursor, the buffers and the lines. -/
def State.LedSound (s : State) : Prop := s.CursorSound ∧ s.UnmappedDark ∧ s.RowLinesSound

/-- The invariants of the receiver and the error record. -/
def State.RxSound (s : State) : Prop := s.RadioSound ∧ s.ReceiveSound ∧ s.ErrorSound

/-- The invariants of the block. -/
def State.BlockSound (s : State) : Prop := s.LedSound ∧ s.TimerSound ∧ s.RxSound

/-- The invariants of the host's contexts. -/
def State.HostSound (s : State) : Prop := s.HandlersSound ∧ s.RequestsSound

theorem State.inv_iff {s : State} : s.Inv ↔ s.BlockSound ∧ s.HostSound := by
  constructor
  · rintro ⟨hcursor, htimer, hradio, hreceive, hdark, hlines, herror, hhandlers, hrequests⟩
    exact ⟨⟨⟨hcursor, hdark, hlines⟩, htimer, hradio, hreceive, herror⟩, hhandlers, hrequests⟩
  · rintro ⟨⟨⟨hcursor, hdark, hlines⟩, htimer, hradio, hreceive, herror⟩, hhandlers, hrequests⟩
    exact ⟨hcursor, htimer, hradio, hreceive, hdark, hlines, herror, hhandlers, hrequests⟩

/-! ## After reset -/

theorem State.blockSound_resetWith (c : Config) : (State.resetWith c).BlockSound := by
  have hdark : (State.resetWith c).UnmappedDark := fun q _ => by simp
  have hlines : (State.resetWith c).RowLinesSound := fun r hr => by simp at hr
  have hreceive : (State.resetWith c).ReceiveSound := ⟨Nat.zero_le _, fun i _ => by simp⟩
  have herror : (State.resetWith c).ErrorSound := ⟨.inl (Nat.zero_le _), by simp, nofun⟩
  exact ⟨⟨rfl, hdark, hlines⟩, ⟨nofun, fun _ => rfl, nofun⟩, nofun, hreceive, herror⟩

/-- Settles O13: the block's fields are at their reset values, and the host's lists are empty. -/
theorem resetHasInvariants : Obligations.ResetHasInvariants :=
  fun c => State.inv_iff.mpr ⟨State.blockSound_resetWith c, List.Pairwise.nil, List.nodup_nil⟩

/-! ## The sequencer and its timer -/

theorem State.cursorSound_step1 {s : State} (h : s.CursorSound) : s.step1.CursorSound := by
  cases hm : s.mode with
  | rowCycle => rwa [State.CursorSound, show s.step1.mask = s.mask from State.steps_mask_of_rowCycle 1 hm]
  | bitPlane =>
    rw [State.CursorSound, State.step1_mask_of_bitPlane hm]
    exact oneHot_rotl8 h

/-- A commit shows the pending buffer, which is as dark. -/
theorem State.CommitsAtMost.unmappedDark {s t : State} (hc : s.CommitsAtMost t) (hcfg : t.cfg = s.cfg)
    (h : s.UnmappedDark) : t.UnmappedDark := by
  intro q hq
  rw [hcfg] at hq
  obtain ⟨hpending, hactive⟩ := h q hq
  obtain ⟨hp, ⟨ha, -⟩ | ⟨-, ha, -⟩⟩ := hc <;> rw [hp, ha]
  · exact ⟨hpending, hactive⟩
  · exact ⟨hpending, hpending⟩

theorem State.rowLinesSound_step1 {s : State} (h : s.RowLinesSound) : s.step1.RowLinesSound := by
  cases hm : s.mode with
  | rowCycle =>
    rw [State.step1_rowCycle hm]
    exact State.rowLinesSound_rowAdvance h
  | bitPlane =>
    rw [State.step1_bitPlane hm]
    by_cases hw : rotl8 s.mask = 0x01
    · rw [State.stepBitPlane_of_wrap hw]
      exact State.rowLinesSound_rowAdvance (s := s.rotateMask) h
    · rw [State.stepBitPlane_of_not_wrap hw]
      exact h

theorem State.ledSound_step1 {s : State} (h : s.LedSound) : s.step1.LedSound := by
  obtain ⟨hcursor, hdark, hlines⟩ := h
  exact ⟨State.cursorSound_step1 hcursor, s.commitsAtMost_step1.unmappedDark (s.steps_cfg 1) hdark,
    State.rowLinesSound_step1 hlines⟩

/-- The timer holds the nonzero delay that an activation ended with (40_led.md R106). -/
theorem State.timerSound_armTimer (s : State) {d : Word} (hd : d ≠ 0) : (s.armTimer d).TimerSound := by
  have hpos : 1 ≤ d.toNat := Nat.one_le_iff_ne_zero.mpr fun h0 => hd (BitVec.eq_of_toNat_eq h0)
  exact ⟨fun _ => hpos, nofun, fun _ => rfl⟩

/-- An activation arms the timer whatever it held before. -/
theorem State.blockSound_of_activation {s t : State} (hled : s.LedSound) (hrx : s.RxSound)
    (h : s.activation = some t) : t.BlockSound := by
  obtain ⟨k, d, -, -, hd, -, ht⟩ := State.activation_spec h
  have hled' : (State.steps k s).LedSound :=
    State.steps_keep (P := State.LedSound) (fun _ => State.ledSound_step1) k hled
  refine ⟨?_, ?_, ?_⟩
  · rw [ht]; exact hled'
  · rw [ht]; exact State.timerSound_armTimer _ hd
  · rw [State.activation_frame h]; exact hrx

theorem State.timerSound_countDown {s : State} (ha : s.timerArmed = true) (hr : 1 < s.timerRem.toNat) :
    State.TimerSound { s with timerRem := s.timerRem - 1 } := by
  have hpos : 1 ≤ (s.timerRem - 1).toNat := by
    rw [BitVec.toNat_sub, show (1 : Word).toNat = 1 from rfl]
    omega
  exact ⟨fun _ => hpos, fun h => by simp [ha] at h, fun _ => ha⟩

theorem State.blockSound_tick {s t : State} (hb : s.BlockSound) (h : s.tick = .next t) : t.BlockSound := by
  have ⟨hled, _, hrx⟩ := hb
  obtain ⟨-, rfl⟩ | ⟨he, hr, rfl⟩ | ⟨-, -, ha⟩ := State.tick_next_cases h
  · exact hb
  · obtain ⟨-, -, harmed⟩ := State.tickEnabled_iff.mp he
    exact ⟨hled, State.timerSound_countDown harmed hr, hrx⟩
  · exact State.blockSound_of_activation (s := { s with timerArmed := false }) hled hrx ha

/-- The edges of LED_EN arm the timer with 1 and disarm it (40_led.md R103, R104). -/
theorem State.timerSound_writeCtrl {s : State} (v : Word) (h : s.TimerSound) : (s.writeCtrl v).TimerSound := by
  obtain ⟨-, hw⟩ | ⟨-, hw⟩ := s.writeCtrl_cases v <;> rw [hw]
  · exact h
  · obtain ⟨harmed, hidle, henabled⟩ := h
    by_cases hedge : s.ledEn = v.getLsbD 0
    · simp only [State.TimerSound, ← hedge]
      exact ⟨harmed, hidle, henabled⟩
    · simp only [State.TimerSound, if_neg hedge]
      cases v.getLsbD 0 <;> simp

/-! ## The buffers and the lines -/

theorem State.unmappedDark_submit {s : State} (h : s.UnmappedDark) : s.submit.UnmappedDark := by
  intro q hq
  obtain ⟨hpending, hactive⟩ := h q hq
  exact ⟨(getElem_mapImage_of_unmapped s.cfg s.img s.pending q hq).trans hpending, hactive⟩

theorem State.rowLinesSound_clearLines (s : State) : s.clearLines.RowLinesSound :=
  fun r hr => absurd ((getElem_noRows r r.isLt).symm.trans hr) (by decide)

/-! ## The receiver -/

/-- The receiver's four situations: not armed over a completed frame, and neither before the first configuration
(41_radio.md R110). -/
theorem State.radioSound_iff {s : State} :
    s.RadioSound ↔ (s.radioRx = false ∨ s.radioEnd = false) ∧
      (s.radioConfigured = false → s.radioRx = false ∧ s.radioEnd = false) := by
  unfold State.RadioSound State.situation
  cases s.radioConfigured <;> cases s.radioRx <;> cases s.radioEnd <;> simp

/-- While the block runs the error record holds one of the codes up to 5 (60_exceptions.md R141). -/
theorem State.errorSound_iff_of_running {s : State} (hs : s.halted = false) : s.ErrorSound ↔ s.err.toNat ≤ 5 := by
  constructor
  · rintro ⟨hcode | hcode, hiff, -⟩
    · exact hcode
    · simp [hs, hcode] at hiff
  · intro hcode
    have hne : s.err ≠ 15 := fun h => by simp [h] at hcode
    exact ⟨.inl hcode, iff_of_false (by simp [hs]) hne, by simp [hs]⟩

theorem State.errorSound_raise {t : State} (ht : t.halted = false) {e : ErrCode} (he : t.err = e.code)
    (hcode : e ≠ .haltConfigNotDisabled) : t.ErrorSound := by
  rw [State.errorSound_iff_of_running ht, he]
  revert hcode
  cases e <;> decide

/-- What leaves the error record and does not halt keeps its invariant. -/
theorem State.errorSound_of_running {s t : State} (hs : s.halted = false) (ht : t.halted = false) (he : t.err = s.err)
    (h : s.ErrorSound) : t.ErrorSound := by
  rw [State.errorSound_iff_of_running ht, he]
  exact (State.errorSound_iff_of_running hs).mp h

theorem State.rxSound_configureRadio {s : State} (group : Byte) (h : s.RxSound) :
    (s.configureRadio group).RxSound := by
  obtain ⟨hradio, hreceive, herror⟩ := h
  obtain ⟨hrx, hc⟩ | ⟨hrx, hc⟩ := s.configureRadio_cases group <;> rw [hc]
  · exact ⟨hradio, hreceive, .inr rfl, by simp [ErrCode.code], fun _ => hrx⟩
  · exact ⟨State.radioSound_iff.mpr ⟨.inl hrx, nofun⟩, hreceive, herror⟩

theorem State.rxSound_startReceive {s : State} (hs : s.halted = false) (h : s.RxSound) : s.startReceive.RxSound := by
  obtain ⟨hradio, hreceive, herror⟩ := h
  obtain ⟨-, hc⟩ | ⟨-, -, hc⟩ | ⟨hconf, hend, hc⟩ := s.startReceive_cases <;> rw [hc]
  · exact ⟨hradio, hreceive, State.errorSound_raise (e := .notConfigured) hs rfl nofun⟩
  · exact ⟨hradio, hreceive, State.errorSound_raise (e := .framePending) hs rfl nofun⟩
  · exact ⟨State.radioSound_iff.mpr ⟨.inr hend, fun hn => absurd (hconf.symm.trans hn) nofun⟩, hreceive,
      State.errorSound_of_running hs hs rfl herror⟩

/-- A taken frame's length and bytes lie below P_RX_CAP (41_radio.md R118). -/
theorem State.receiveSound_takeFrame {s : State} (h : s.ReceiveSound) : s.takeFrame.ReceiveSound := by
  obtain ⟨-, hzero⟩ := h
  have hcap : copyLength s.cfg s.rxbuf[0] ≤ s.cfg.rxCap := Nat.min_le_right _ _
  refine ⟨(toNat_ofNat_copyLength s.cfg _).trans_le hcap, fun i hi => ?_⟩
  obtain ⟨hbuf, hdata⟩ := hzero i hi
  exact ⟨hbuf, (copyFirst_of_le _ _ (hcap.trans hi)).trans hdata⟩

theorem State.rxSound_receive {s : State} (hs : s.halted = false) (h : s.RxSound) : s.receive.RxSound := by
  obtain ⟨hradio, hreceive, herror⟩ := h
  have hended : s.radioConfigured = false → s.radioRx = false ∧ false = false := by
    obtain ⟨-, hidle⟩ := State.radioSound_iff.mp hradio
    exact fun hn => (hidle hn).imp_right fun _ => rfl
  have ⟨_, hzero⟩ := hreceive
  obtain ⟨-, hc⟩ | ⟨-, -, hc⟩ | ⟨-, -, hc⟩ := s.receive_cases <;> rw [hc]
  · exact ⟨hradio, ⟨Nat.zero_le _, hzero⟩, State.errorSound_raise (e := .noFrame) hs rfl nofun⟩
  · exact ⟨State.radioSound_iff.mpr ⟨.inr rfl, hended⟩, State.receiveSound_takeFrame hreceive,
      State.errorSound_of_running hs hs rfl herror⟩
  · exact ⟨State.radioSound_iff.mpr ⟨.inr rfl, hended⟩, ⟨Nat.zero_le _, hzero⟩,
      State.errorSound_of_running hs hs rfl herror⟩

theorem State.rxSound_clearErr {s : State} (hs : s.halted = false) (h : s.RxSound) : s.clearErr.RxSound := by
  obtain ⟨hradio, hreceive, -⟩ := h
  exact ⟨hradio, hreceive, (State.errorSound_iff_of_running (s := s.clearErr) hs).mpr (Nat.zero_le _)⟩

theorem State.rxSound_raise_decodeErr {s : State} (e : DecodeError) (hs : s.halted = false) (h : s.RxSound) :
    (s.raiseErr (decodeErrCode e)).RxSound := by
  obtain ⟨hradio, hreceive, -⟩ := h
  exact ⟨hradio, hreceive, State.errorSound_raise hs rfl (by cases e <;> decide)⟩

/-- A stored frame's bytes lie below P_RX_CAP, and only an armed, so configured, receiver stores one (41_radio.md
R114). -/
theorem State.rxSound_deliver {s : State} (f : Frame) (h : s.RxSound) : (s.deliver f).RxSound := by
  obtain hd | ⟨hs, hrx, -, -, hd⟩ := s.deliver_cases f <;> rw [hd]
  · exact h
  · obtain ⟨hradio, ⟨hlen, hzero⟩, herror⟩ := h
    obtain ⟨-, hconf⟩ := State.radioSound_iff.mp hradio
    have hcap : keptLength s.cfg f ≤ s.cfg.rxCap := Nat.min_le_right _ _
    refine ⟨State.radioSound_iff.mpr ⟨.inl rfl, fun hn => ?_⟩, ⟨hlen, fun i hi => ?_⟩,
      State.errorSound_of_running hs hs rfl herror⟩
    · simp [hrx, show s.radioConfigured = false from hn] at hconf
    · obtain ⟨hbuf, hdata⟩ := hzero i hi
      exact ⟨(storeBytes_of_le _ _ (hcap.trans hi)).trans hbuf, hdata⟩

/-! ## Every event keeps the block's invariants -/

theorem State.BlockSound.exec {i : Instr} {s t : State} (hb : s.BlockSound) (hx : ExecEffect s i t) : t.BlockSound := by
  have ⟨hled, htimer, hrx⟩ := hb
  have ⟨hcursor, hdark, hlines⟩ := hled
  cases hx with
  | ignored => exact hb
  | ledSubmit => exact ⟨⟨hcursor, State.unmappedDark_submit hdark, hlines⟩, htimer, hrx⟩
  | ledClear => exact ⟨⟨hcursor, hdark, s.rowLinesSound_clearLines⟩, htimer, hrx⟩
  | ledStep _ ha => exact State.blockSound_of_activation hled hrx ha
  | @radioConfigure group =>
    have hrx' := State.rxSound_configureRadio group hrx
    obtain ⟨_, _, _, _, -, hf⟩ := s.configureRadio_frame group
    rw [hf] at hrx' ⊢; exact ⟨hled, htimer, hrx'⟩
  | radioStartRx hs =>
    have hrx' := State.rxSound_startReceive hs hrx
    obtain ⟨_, _, _, hf⟩ := s.startReceive_frame
    rw [hf] at hrx' ⊢; exact ⟨hled, htimer, hrx'⟩
  | radioReceive hs =>
    have hrx' := State.rxSound_receive hs hrx
    obtain ⟨_, _, _, _, hf⟩ := s.receive_frame
    rw [hf] at hrx' ⊢; exact ⟨hled, htimer, hrx'⟩
  | errClear hs => exact ⟨hled, htimer, State.rxSound_clearErr hs hrx⟩

theorem State.BlockSound.perform {e : Event} {s t : State} (hb : s.BlockSound) (h : perform e s = .next t) :
    t.BlockSound := by
  have ⟨hled, htimer, hrx⟩ := hb
  cases eventEffect_of_perform h with
  | command _ hx => exact hb.exec hx
  | badWord _ hs => exact ⟨hled, htimer, State.rxSound_raise_decodeErr _ hs hrx⟩
  | writeCtrl v =>
    have htimer' := State.timerSound_writeCtrl v htimer
    obtain ⟨_, _, _, _, _, hf⟩ := s.writeCtrl_frame v
    rw [hf] at htimer' ⊢; exact ⟨hled, htimer', hrx⟩
  | writeImg j v =>
    obtain ⟨_, hf⟩ := s.writeImg_frame j v
    rw [hf]; exact hb
  | tick ht => exact State.blockSound_tick hb ht
  | frame f =>
    have hrx' := State.rxSound_deliver f hrx
    obtain ⟨_, _, _, _, hf⟩ := s.deliver_frame f
    rw [hf] at hrx' ⊢; exact ⟨hled, htimer, hrx'⟩
  | reset => exact State.blockSound_resetWith s.cfg
  | hostOnly hsame => rw [hsame]; exact hb

/-! ## Every event keeps the host's invariants -/

/-- The handler that starts outranks the innermost one, and so all of them (60_exceptions.md R154). -/
theorem State.hostSound_takeIrq {s : State} (src : IrqSource) (h : s.HostSound) : (s.takeIrq src).HostSound := by
  obtain ht | ⟨-, -, hy, ht⟩ := s.takeIrq_cases src <;> rw [ht]
  · exact h
  · obtain ⟨hhandlers, hrequests⟩ := h
    refine ⟨?_, State.requestsAfter_nodup src hrequests⟩
    rw [State.yieldsTo_iff] at hy
    unfold State.HandlersSound at hhandlers ⊢
    refine List.pairwise_cons.mpr ⟨fun r hr => ?_, hhandlers⟩
    cases hl : s.hostHandlers with
    | nil => simp [hl] at hr
    | cons top rest =>
      rw [hl] at hr hy hhandlers
      have htop : irqPriority s.cfg top < irqPriority s.cfg src := hy top rfl
      obtain rfl | hr := List.mem_cons.mp hr
      · exact htop
      · exact (List.rel_of_pairwise_cons hhandlers hr).trans htop

theorem State.hostSound_returnFromIrq {s : State} (h : s.HostSound) : s.returnFromIrq.HostSound := by
  obtain ⟨-, ht⟩ | ⟨-, ht⟩ := s.returnFromIrq_cases <;> rw [ht]
  · exact h
  · obtain ⟨hhandlers, hrequests⟩ := h
    exact ⟨List.Pairwise.tail hhandlers, hrequests⟩

/-- A request waits once (60_exceptions.md R154). -/
theorem State.hostSound_request {s : State} (src : IrqSource) (h : s.HostSound) : (s.request src).HostSound := by
  obtain ht | ⟨-, hn, ht⟩ := s.request_cases src <;> rw [ht]
  · exact h
  · obtain ⟨hhandlers, hrequests⟩ := h
    exact ⟨hhandlers, List.nodup_append'.mpr
      ⟨State.requests_nodup hrequests, List.nodup_singleton _, by simpa using hn⟩⟩

theorem State.HostSound.perform {e : Event} {s t : State} (hh : s.HostSound) (h : perform e s = .next t) :
    t.HostSound := by
  cases eventFrame_of_perform h with
  | activation _ ht => rw [ht]; exact hh
  | clear _ ht => rw [ht]; exact hh
  | submit _ ht => rw [ht]; exact hh
  | receive _ ht => rw [ht]; exact hh
  | deliver _ _ ht => rw [ht]; exact hh
  | reset _ ht => rw [ht]; exact hh
  | registers ht => rw [ht]; exact hh
  | contexts _ hc =>
    obtain ⟨src, rfl⟩ | rfl | ⟨src, rfl⟩ := hc
    · exact State.hostSound_takeIrq src hh
    · exact State.hostSound_returnFromIrq hh
    · exact State.hostSound_request src hh

/-! ## The step -/

/-- Taking the event off and noting the radio's line keeps every invariant. -/
theorem State.inv_beforeEvent {s : State} (h : s.Inv) : (dropEvent s).noteRequests.Inv := by
  obtain ⟨hb, hhandlers, hrequests⟩ := State.inv_iff.mp h
  obtain ⟨agenda, choices, hd⟩ := dropEvent_frame s
  rw [hd]
  exact State.inv_iff.mpr ⟨hb, hhandlers, State.requests_nodup (s := { s with agenda, choices }) hrequests⟩

/-- Settles O14: every event keeps the invariants of the block and those of the host. -/
theorem stepKeepsInvariants : Obligations.StepKeepsInvariants := by
  intro s t hs h
  obtain ⟨hb, hh⟩ := State.inv_iff.mp (State.inv_beforeEvent hs)
  exact State.inv_iff.mpr ⟨hb.perform h, hh.perform h⟩

/-! ## What stops the machine -/

/-- The operation answers a next state. -/
def Answers (o : StepOutcome) : Prop := ∃ t, o = .next t

/-- With a one-hot mask an activation always ends (40_led.md R101). -/
theorem State.activate_answers {s : State} (h : s.CursorSound) : Answers s.activate := by
  cases hm : s.mode with
  | rowCycle => exact ⟨_, (State.firstDelay_of_rowCycle hm).activate (by decide)⟩
  | bitPlane =>
    obtain ⟨k, d, hk, hf⟩ := State.exists_firstDelay_of_bitPlane hm h
    exact ⟨_, hf.activate hk⟩

theorem unlessHalted_answers (s : State) {o : StepOutcome} (h : Answers o) : Answers (unlessHalted s o) := by
  unfold unlessHalted
  split
  · exact ⟨s, rfl⟩
  · exact h

theorem exec_answers (i : Instr) {s : State} (h : s.CursorSound) : Answers (exec i s) := by
  cases i with
  | ledStep => exact unlessHalted_answers s (State.activate_answers h)
  | _ => exact unlessHalted_answers s ⟨_, rfl⟩

theorem writeOffset_answers (off : Offset) (v : Word) {s : State} (h : s.CursorSound) :
    Answers (writeOffset off v s) := by
  unfold writeOffset
  split
  · next r _ =>
    cases r with
    | cmd =>
      obtain ⟨i, -, hc⟩ | ⟨e, -, hc⟩ := command_cases v s <;> rw [writeReg, hc]
      · exact exec_answers i h
      · exact unlessHalted_answers s ⟨_, rfl⟩
    | _ => exact ⟨_, rfl⟩
  · exact ⟨s, rfl⟩

theorem State.tick_answers {s : State} (h : s.CursorSound) : Answers s.tick := by
  unfold State.tick
  split
  · split
    · exact State.activate_answers (s := { s with timerArmed := false }) h
    · exact ⟨_, rfl⟩
  · exact ⟨s, rfl⟩

/-- The event is an access of the wrong size or alignment (20_memory.md R53). -/
def NotAdmitted (e : Event) : Prop :=
  ∃ size off, accessAdmitted size off = false ∧ (e = .host (.read size off) ∨ ∃ v, e = .host (.write size off v))

theorem hostStep_answers (op : HostOp) {s : State} (h : s.CursorSound) :
    Answers (hostStep op s) ∨ hostStep op s = .fault .busError ∧ NotAdmitted (.host op) := by
  cases op with
  | read size off =>
    cases ha : accessAdmitted size off with
    | true => exact .inl ⟨_, if_pos ha⟩
    | false => exact .inr ⟨if_neg (by simp [ha]), size, off, ha, .inl rfl⟩
  | write size off v =>
    cases ha : accessAdmitted size off with
    | true =>
      have hw : hostStep (.write size off v) s = writeOffset off v s := if_pos ha
      exact .inl (hw ▸ writeOffset_answers off v h)
    | false => exact .inr ⟨if_neg (by simp [ha]), size, off, ha, .inr ⟨v, rfl⟩⟩
  | _ => exact .inl ⟨_, rfl⟩

/-- With a one-hot mask every event answers a next state, but for a bus error. -/
theorem perform_answers (e : Event) {s : State} (h : s.CursorSound) :
    Answers (perform e s) ∨ perform e s = .fault .busError ∧ NotAdmitted e := by
  cases e with
  | host op => exact hostStep_answers op h
  | tick => exact .inl (State.tick_answers h)
  | _ => exact .inl ⟨_, rfl⟩

/-- Settles O12: of the invariants the one-hot mask is enough. -/
theorem onlyBusErrorsStopTheMachine : Obligations.OnlyBusErrorsStopTheMachine := by
  intro s hs
  obtain ⟨hcursor, -⟩ := State.inv_beforeEvent hs
  obtain ⟨t, ht⟩ | ⟨hf, hn⟩ := perform_answers (nextEvent s) hcursor
  · rw [step_eq_perform, ht]
    exact ⟨nofun, nofun⟩
  · rw [step_eq_perform, hf]
    exact ⟨nofun, fun f hf' => ⟨(Host.Outcome.fault.inj hf').symm, hn⟩⟩

end Sys2Proof.Machine
end
